-- ==== Sys2Proof/Word.lean ====
section
/-! DEFINITION. The two word widths of the core (00_scope.md R5, R7): every value is unsigned. -/

namespace Sys2Proof

/-- An 8-bit value: a memory cell, a general register, a timer, an immediate (R5). -/
abbrev Byte := BitVec 8

/-- A 16-bit value: an instruction word, the index register, the program counter, a stack slot (R5). -/
abbrev Word := BitVec 16

end Sys2Proof
end

