-- ==== Sys2Proof/Config.lean ====
section
/-! DEFINITION. What is fixed for a run (00_scope.md R5, R11), the input ports (10_state.md R42), and the
free values: inputs the environment gives under no law (10_state.md R40, R41, 60_exceptions.md R213). -/

namespace Sys2Proof

/-- `SYS_POLICY` (00_scope.md R5, 40_flow.md R120): what the machine-routine operation does. -/
inductive SysPolicy where
  /-- Halt with `SysUnsupported`, the default. -/
  | fault
  /-- No effect. -/
  | ignore
  /-- Behave like `1nnn`. -/
  | jump
  deriving DecidableEq, Repr

/-- The form of the scheduler. -/
inductive SchedForm where
  /-- The abstract form (60_exceptions.md R213): each step is an instruction step or a timer step, the choice
  being an input. -/
  | interleaved
  /-- The clocked form (60_exceptions.md R214): each step is one rising edge of `clk`, two counters saying what is due. -/
  | clocked
  deriving DecidableEq, Repr

/-- The parameters of a run, fixed before it starts (00_scope.md R5, R11). They stand in the state, where no step
writes them (log entry 4). -/
structure Params where
  /-- `FONT`, 80 bytes (20_memory.md R72). -/
  font : Vector Byte 80
  /-- `SYS_POLICY` (40_flow.md R120). -/
  sysPolicy : SysPolicy
  /-- Which form of the scheduler runs (60_exceptions.md R213, R214). -/
  form : SchedForm
  /-- `F_CLK` in hertz, a multiple of 3000 (00_scope.md R5). -/
  fClk : Nat
  deriving DecidableEq, Repr

/-- The two kinds of step of the interleaved form (60_exceptions.md R213). -/
inductive Tick where
  | instruction
  | timer
  deriving DecidableEq, Repr, Inhabited

/-- One sample of everything the environment drives: the input ports of 10_state.md R42 and, for the interleaved
form, the schedule's choice of the kind of step (60_exceptions.md R213). -/
structure Inputs where
  /-- `rst`, synchronous reset (R42, R240). -/
  rst : Bool
  /-- `rom_valid`: one ROM byte is presented (R42, R43). -/
  romValid : Bool
  /-- `rom_byte` (R42, R43). -/
  romByte : Byte
  /-- `boot_go`: the ROM image is complete (R42). -/
  bootGo : Bool
  /-- `stop`, the external stop request, a level (R42, R205). -/
  stop : Bool
  /-- `keys`: bit k is 1 while key k is held (R40). -/
  keys : BitVec 16
  /-- `rnd`, the random byte (R41). -/
  rnd : Byte
  /-- The schedule's choice (R213), read in the interleaved form only. -/
  tick : Tick
  deriving DecidableEq, Repr, Inhabited

/-- FREE VALUE: the inputs of the n-th sample that no script gives. It has no body, so a claim holds whatever the
environment does (10_state.md R40, R41, 60_exceptions.md R213, log entry 2). -/
opaque Config.freeInputs : Nat → Inputs

/-- The environment as plain data, the model's own way of holding inputs (log entry 2). -/
structure Env where
  /-- The sample the next step reads. -/
  now : Inputs
  /-- The samples of the steps after it, oldest first. -/
  script : List Inputs
  /-- After the script's end: `true` keeps the present levels, `false` takes free values. -/
  held : Bool
  /-- How many free samples were taken so far. -/
  drawn : Nat
  deriving DecidableEq, Repr

end Sys2Proof
end

