-- ==== Sys2Proof/Syntax.lean ====
section
/-! DEFINITION. The instructions: one constructor for each of the 35 rows of 30_encoding.md R98, in the table's order,
with the operand fields of 30_encoding.md R92 the row's format has (R101), ignored fields (R99) included. -/

namespace Sys2Proof

/-- A register number, 0 to 15 (30_encoding.md R92, R93). -/
abbrev Reg := Fin 16

/-- The instructions (30_encoding.md R98). -/
inductive Instr where
  /-- `00E0` CLS (43_display.md R170). -/
  | cls
  /-- `00EE` RET (40_flow.md R121). -/
  | ret
  /-- `0nnn` SYS nnn (40_flow.md R120). -/
  | sys (nnn : BitVec 12)
  /-- `1nnn` JP nnn (40_flow.md R122). -/
  | jp (nnn : BitVec 12)
  /-- `2nnn` CALL nnn (40_flow.md R123). -/
  | call (nnn : BitVec 12)
  /-- `3xkk` SE Vx, kk (40_flow.md R125). -/
  | seImm (x : Reg) (kk : Byte)
  /-- `4xkk` SNE Vx, kk (40_flow.md R126). -/
  | sneImm (x : Reg) (kk : Byte)
  /-- `5xy0` SE Vx, Vy (40_flow.md R127). -/
  | seReg (x y : Reg)
  /-- `6xkk` LD Vx, kk (41_alu.md R140). -/
  | ldImm (x : Reg) (kk : Byte)
  /-- `7xkk` ADD Vx, kk (41_alu.md R141). -/
  | addImm (x : Reg) (kk : Byte)
  /-- `8xy0` LD Vx, Vy (41_alu.md R142). -/
  | ldReg (x y : Reg)
  /-- `8xy1` OR Vx, Vy (41_alu.md R143). -/
  | orReg (x y : Reg)
  /-- `8xy2` AND Vx, Vy (41_alu.md R144). -/
  | andReg (x y : Reg)
  /-- `8xy3` XOR Vx, Vy (41_alu.md R145). -/
  | xorReg (x y : Reg)
  /-- `8xy4` ADD Vx, Vy (41_alu.md R146). -/
  | addReg (x y : Reg)
  /-- `8xy5` SUB Vx, Vy (41_alu.md R147). -/
  | sub (x y : Reg)
  /-- `8xy6` SHR Vx (41_alu.md R148); y is ignored (30_encoding.md R99). -/
  | shr (x y : Reg)
  /-- `8xy7` SUBN Vx, Vy (41_alu.md R149). -/
  | subn (x y : Reg)
  /-- `8xyE` SHL Vx (41_alu.md R150); y is ignored (30_encoding.md R99). -/
  | shl (x y : Reg)
  /-- `9xy0` SNE Vx, Vy (40_flow.md R128). -/
  | sneReg (x y : Reg)
  /-- `Annn` LD I, nnn (42_index_memory.md R160). -/
  | ldI (nnn : BitVec 12)
  /-- `Bnnn` JP V0, nnn (40_flow.md R124). -/
  | jpV0 (nnn : BitVec 12)
  /-- `Cxkk` RND Vx, kk (41_alu.md R151). -/
  | rnd (x : Reg) (kk : Byte)
  /-- `Dxyn` DRW Vx, Vy, n (43_display.md R171). -/
  | drw (x y : Reg) (n : Fin 16)
  /-- `Ex9E` SKP Vx (44_keys_timers.md R180). -/
  | skp (x : Reg)
  /-- `ExA1` SKNP Vx (44_keys_timers.md R181). -/
  | sknp (x : Reg)
  /-- `Fx07` LD Vx, DT (44_keys_timers.md R182). -/
  | ldVxDt (x : Reg)
  /-- `Fx0A` LD Vx, K (44_keys_timers.md R183). -/
  | ldVxKey (x : Reg)
  /-- `Fx15` LD DT, Vx (44_keys_timers.md R184). -/
  | ldDtVx (x : Reg)
  /-- `Fx18` LD ST, Vx (44_keys_timers.md R185). -/
  | ldStVx (x : Reg)
  /-- `Fx1E` ADD I, Vx (42_index_memory.md R161). -/
  | addI (x : Reg)
  /-- `Fx29` LD F, Vx (42_index_memory.md R162). -/
  | ldFont (x : Reg)
  /-- `Fx33` LD B, Vx (42_index_memory.md R163). -/
  | ldBcd (x : Reg)
  /-- `Fx55` LD [I], Vx (42_index_memory.md R164). -/
  | ldMemVx (x : Reg)
  /-- `Fx65` LD Vx, [I] (42_index_memory.md R165). -/
  | ldVxMem (x : Reg)
  deriving DecidableEq, Repr

end Sys2Proof
end

