-- ==== Sys2Proof/WellFormed.lean ====
section
/-! DEFINITION. The instructions the dispatcher can select. The operand types already bound every field (30_encoding.md
R92); the one thing left to check is the priority of R95: the words `00E0` and `00EE` select CLS and RET, never SYS. -/

namespace Sys2Proof

/-- `SYS nnn` is selected by "every word 0x0000 to 0x0FFF except 0x00E0 and 0x00EE" (40_flow.md R120, 30_encoding.md
R95); every other instruction is selected with every value of its fields. -/
def WellFormed : Instr → Bool
  | .sys nnn => nnn != 0x0E0#12 && nnn != 0x0EE#12
  | .cls | .ret | .jp _ | .call _ | .seImm _ _ | .sneImm _ _ | .seReg _ _ | .ldImm _ _ | .addImm _ _
  | .ldReg _ _ | .orReg _ _ | .andReg _ _ | .xorReg _ _ | .addReg _ _ | .sub _ _ | .shr _ _ | .subn _ _
  | .shl _ _ | .sneReg _ _ | .ldI _ | .jpV0 _ | .rnd _ _ | .drw _ _ _ | .skp _ | .sknp _ | .ldVxDt _
  | .ldVxKey _ | .ldDtVx _ | .ldStVx _ | .addI _ | .ldFont _ | .ldBcd _ | .ldMemVx _ | .ldVxMem _ => true

end Sys2Proof
end

