-- ==== Sys2Proof/Decode.lean ====
section
/-! DEFINITION. The decoder (30_encoding.md R92), the dispatcher with its priority list of mask and match pairs (R94 to
R98), and after them the encoder, written from the formats of R101. -/

namespace Sys2Proof

/-- The five decoder outputs of 30_encoding.md R92. -/
structure Fields where
  nnn : BitVec 12
  n : Fin 16
  x : Reg
  y : Reg
  kk : Byte
  deriving DecidableEq, Repr

/-- `nnn`, bits 11:0 (R92). -/
def fieldNnn (w : Word) : BitVec 12 := w.extractLsb' 0 12
/-- `n`, bits 3:0 (R92). -/
def fieldN (w : Word) : Fin 16 := (w.extractLsb' 0 4).toFin
/-- `x`, bits 11:8 (R92). -/
def fieldX (w : Word) : Reg := (w.extractLsb' 8 4).toFin
/-- `y`, bits 7:4 (R92). -/
def fieldY (w : Word) : Reg := (w.extractLsb' 4 4).toFin
/-- `kk`, bits 7:0 (R92). -/
def fieldKk (w : Word) : Byte := w.extractLsb' 0 8

/-- `Decode(W)`: pure and total, "every 16-bit value decodes" (30_encoding.md R92). -/
def fieldsOf (w : Word) : Fields :=
  { nnn := fieldNnn w, n := fieldN w, x := fieldX w, y := fieldY w, kk := fieldKk w }

/-- One row of 30_encoding.md R98: a word w selects it when `w &&& mask = pat`, and its operands are then taken from the
fields its format has. -/
structure Row where
  pat : Word
  mask : Word
  build : Fields → Instr

/-- Rows 1 to 8 of R98; the two exact words come first (R95). -/
def rowsFlow : List Row :=
  [ ⟨0x00E0#16, 0xFFFF#16, fun _ => .cls⟩,
    ⟨0x00EE#16, 0xFFFF#16, fun _ => .ret⟩,
    ⟨0x0000#16, 0xF000#16, fun f => .sys f.nnn⟩,
    ⟨0x1000#16, 0xF000#16, fun f => .jp f.nnn⟩,
    ⟨0x2000#16, 0xF000#16, fun f => .call f.nnn⟩,
    ⟨0x3000#16, 0xF000#16, fun f => .seImm f.x f.kk⟩,
    ⟨0x4000#16, 0xF000#16, fun f => .sneImm f.x f.kk⟩,
    ⟨0x5000#16, 0xF00F#16, fun f => .seReg f.x f.y⟩ ]

/-- Rows 9 to 20 of R98. -/
def rowsAlu : List Row :=
  [ ⟨0x6000#16, 0xF000#16, fun f => .ldImm f.x f.kk⟩,
    ⟨0x7000#16, 0xF000#16, fun f => .addImm f.x f.kk⟩,
    ⟨0x8000#16, 0xF00F#16, fun f => .ldReg f.x f.y⟩,
    ⟨0x8001#16, 0xF00F#16, fun f => .orReg f.x f.y⟩,
    ⟨0x8002#16, 0xF00F#16, fun f => .andReg f.x f.y⟩,
    ⟨0x8003#16, 0xF00F#16, fun f => .xorReg f.x f.y⟩,
    ⟨0x8004#16, 0xF00F#16, fun f => .addReg f.x f.y⟩,
    ⟨0x8005#16, 0xF00F#16, fun f => .sub f.x f.y⟩,
    ⟨0x8006#16, 0xF00F#16, fun f => .shr f.x f.y⟩,
    ⟨0x8007#16, 0xF00F#16, fun f => .subn f.x f.y⟩,
    ⟨0x800E#16, 0xF00F#16, fun f => .shl f.x f.y⟩,
    ⟨0x9000#16, 0xF00F#16, fun f => .sneReg f.x f.y⟩ ]

/-- Rows 21 to 35 of R98. -/
def rowsRest : List Row :=
  [ ⟨0xA000#16, 0xF000#16, fun f => .ldI f.nnn⟩,
    ⟨0xB000#16, 0xF000#16, fun f => .jpV0 f.nnn⟩,
    ⟨0xC000#16, 0xF000#16, fun f => .rnd f.x f.kk⟩,
    ⟨0xD000#16, 0xF000#16, fun f => .drw f.x f.y f.n⟩,
    ⟨0xE09E#16, 0xF0FF#16, fun f => .skp f.x⟩,
    ⟨0xE0A1#16, 0xF0FF#16, fun f => .sknp f.x⟩,
    ⟨0xF007#16, 0xF0FF#16, fun f => .ldVxDt f.x⟩,
    ⟨0xF00A#16, 0xF0FF#16, fun f => .ldVxKey f.x⟩,
    ⟨0xF015#16, 0xF0FF#16, fun f => .ldDtVx f.x⟩,
    ⟨0xF018#16, 0xF0FF#16, fun f => .ldStVx f.x⟩,
    ⟨0xF01E#16, 0xF0FF#16, fun f => .addI f.x⟩,
    ⟨0xF029#16, 0xF0FF#16, fun f => .ldFont f.x⟩,
    ⟨0xF033#16, 0xF0FF#16, fun f => .ldBcd f.x⟩,
    ⟨0xF055#16, 0xF0FF#16, fun f => .ldMemVx f.x⟩,
    ⟨0xF065#16, 0xF0FF#16, fun f => .ldVxMem f.x⟩ ]

/-- The opcode map in dispatch order (30_encoding.md R98). -/
def opcodeRows : List Row := rowsFlow ++ rowsAlu ++ rowsRest

/-- What the dispatcher answers for a word; it rejects by name. -/
inductive Decoded where
  /-- The word selects this instruction. -/
  | instr (i : Instr)
  /-- The word matches no pair (30_encoding.md R97); it is what `HALT_INFO` will show. -/
  | unrecognized (w : Word)
  deriving DecidableEq, Repr

/-- `W & mask = match` (30_encoding.md R94). -/
def Row.selects (r : Row) (w : Word) : Bool := w &&& r.mask == r.pat

/-- `Dispatch` over a list of rows: "the first that holds wins" (30_encoding.md R95), none is unrecognized (R97). -/
def dispatch (w : Word) : List Row → Decoded
  | [] => .unrecognized w
  | r :: rs => if r.selects w then .instr (r.build (fieldsOf w)) else dispatch w rs

/-- Steps 3 and 4 of the instruction cycle: the instruction a word selects (30_encoding.md R90, R94). -/
def decode (w : Word) : Decoded := dispatch w opcodeRows

/-- The word two bytes make, high-order byte first (20_memory.md R64). -/
def wordOfBytes (hi lo : Byte) : Word := hi ++ lo

/-- The bytes of a word in the order they lie in memory (20_memory.md R64). -/
def bytesOfWord (w : Word) : List Byte := [w.extractLsb' 8 8, w.extractLsb' 0 8]

/-- What the decoder of byte lists answers; it rejects by name. -/
inductive DecodedBytes where
  /-- The first word's answer, and the bytes after it. -/
  | word (d : Decoded) (rest : List Byte)
  /-- Fewer than two bytes were given. The core never does so: a fetch that reaches past the memory halts before it
  reads (30_encoding.md R91). -/
  | truncated
  deriving DecidableEq, Repr

/-- The first instruction of a list of bytes; total on any bytes. -/
def decodeBytes : List Byte → DecodedBytes
  | hi :: lo :: rest => .word (decode (wordOfBytes hi lo)) rest
  | [_] => .truncated
  | [] => .truncated

/-- The instruction the decoder reads from the word whose bits the opcode table numbers as w: the word is laid out high
byte first, as the core stores it (20_memory.md R64), and given to the decoder of byte lists. -/
def decodeTableWord (nbits w : Nat) : Option Instr :=
  match decodeBytes (bytesOfWord (BitVec.ofNat 16 (w % 2 ^ nbits))) with
  | .word (.instr i) _ => some i
  | .word (.unrecognized _) _ => none
  | .truncated => none

/-! The encoder: the formats of 30_encoding.md R101. -/

/-- Format NNN: class digit and address operand. -/
def formatNnn (c : BitVec 4) (nnn : BitVec 12) : Word := c ++ nnn

/-- A register number or a count as a digit of the word. -/
def digit (x : Fin 16) : BitVec 4 := BitVec.ofFin x

/-- Format XKK: class digit, x, immediate. -/
def formatXkk (c : BitVec 4) (x : Reg) (kk : Byte) : Word := (c ++ digit x) ++ kk

/-- Formats XY and XYN: class digit, x, y, last digit. -/
def formatXyn (c : BitVec 4) (x y : Reg) (n : BitVec 4) : Word := (c ++ digit x) ++ (digit y ++ n)

/-- The word of an instruction (30_encoding.md R98, R101). -/
def encode : Instr → Word
  | .cls => 0x00E0#16
  | .ret => 0x00EE#16
  | .sys nnn => formatNnn 0x0#4 nnn
  | .jp nnn => formatNnn 0x1#4 nnn
  | .call nnn => formatNnn 0x2#4 nnn
  | .seImm x kk => formatXkk 0x3#4 x kk
  | .sneImm x kk => formatXkk 0x4#4 x kk
  | .seReg x y => formatXyn 0x5#4 x y 0x0#4
  | .ldImm x kk => formatXkk 0x6#4 x kk
  | .addImm x kk => formatXkk 0x7#4 x kk
  | .ldReg x y => formatXyn 0x8#4 x y 0x0#4
  | .orReg x y => formatXyn 0x8#4 x y 0x1#4
  | .andReg x y => formatXyn 0x8#4 x y 0x2#4
  | .xorReg x y => formatXyn 0x8#4 x y 0x3#4
  | .addReg x y => formatXyn 0x8#4 x y 0x4#4
  | .sub x y => formatXyn 0x8#4 x y 0x5#4
  | .shr x y => formatXyn 0x8#4 x y 0x6#4
  | .subn x y => formatXyn 0x8#4 x y 0x7#4
  | .shl x y => formatXyn 0x8#4 x y 0xE#4
  | .sneReg x y => formatXyn 0x9#4 x y 0x0#4
  | .ldI nnn => formatNnn 0xA#4 nnn
  | .jpV0 nnn => formatNnn 0xB#4 nnn
  | .rnd x kk => formatXkk 0xC#4 x kk
  | .drw x y n => formatXyn 0xD#4 x y (digit n)
  | .skp x => formatXkk 0xE#4 x 0x9E#8
  | .sknp x => formatXkk 0xE#4 x 0xA1#8
  | .ldVxDt x => formatXkk 0xF#4 x 0x07#8
  | .ldVxKey x => formatXkk 0xF#4 x 0x0A#8
  | .ldDtVx x => formatXkk 0xF#4 x 0x15#8
  | .ldStVx x => formatXkk 0xF#4 x 0x18#8
  | .addI x => formatXkk 0xF#4 x 0x1E#8
  | .ldFont x => formatXkk 0xF#4 x 0x29#8
  | .ldBcd x => formatXkk 0xF#4 x 0x33#8
  | .ldMemVx x => formatXkk 0xF#4 x 0x55#8
  | .ldVxMem x => formatXkk 0xF#4 x 0x65#8

/-- The bytes of an instruction as they lie in memory (20_memory.md R64). -/
def encodeBytes (i : Instr) : List Byte := bytesOfWord (encode i)

end Sys2Proof
end

