-- ==== Sys2Proof/Machine/Params.lean ====
section
/-! DEFINITION. The default parameters of a run (00_scope.md R5): the font table (20_memory.md R72), the policy, the
scheduler's form, and the two periods of the clocked form (60_exceptions.md R214). -/

namespace Sys2Proof.Machine

/-- The glyphs 0 to 7 of the default font (20_memory.md R72). -/
def fontLow : Vector Byte 40 :=
  #v[0xF0#8, 0x90#8, 0x90#8, 0x90#8, 0xF0#8,
     0x20#8, 0x60#8, 0x20#8, 0x20#8, 0x70#8,
     0xF0#8, 0x10#8, 0xF0#8, 0x80#8, 0xF0#8,
     0xF0#8, 0x10#8, 0xF0#8, 0x10#8, 0xF0#8,
     0x90#8, 0x90#8, 0xF0#8, 0x10#8, 0x10#8,
     0xF0#8, 0x80#8, 0xF0#8, 0x10#8, 0xF0#8,
     0xF0#8, 0x80#8, 0xF0#8, 0x90#8, 0xF0#8,
     0xF0#8, 0x10#8, 0x20#8, 0x40#8, 0x40#8]

/-- The glyphs 8 to F of the default font (20_memory.md R72). -/
def fontHigh : Vector Byte 40 :=
  #v[0xF0#8, 0x90#8, 0xF0#8, 0x90#8, 0xF0#8,
     0xF0#8, 0x90#8, 0xF0#8, 0x10#8, 0xF0#8,
     0xF0#8, 0x90#8, 0xF0#8, 0x90#8, 0x90#8,
     0xE0#8, 0x90#8, 0xE0#8, 0x90#8, 0xE0#8,
     0xF0#8, 0x80#8, 0x80#8, 0x80#8, 0xF0#8,
     0xE0#8, 0x90#8, 0x90#8, 0x90#8, 0xE0#8,
     0xF0#8, 0x80#8, 0xF0#8, 0x80#8, 0xF0#8,
     0xF0#8, 0x80#8, 0xF0#8, 0x80#8, 0x80#8]

/-- The default `FONT`, 16 glyphs of 5 bytes (20_memory.md R72). -/
def defaultFont : Vector Byte 80 := fontLow ++ fontHigh

/-- The default parameters (00_scope.md R5); the interleaved form of the scheduler is the one "normative for proofs"
(92_eei_decisions.md D22). -/
def defaultParams : Params :=
  { font := defaultFont, sysPolicy := .fault, form := .interleaved, fClk := 3000 }

/-- Input levels at rest: no control input is asserted, no key is held, and the schedule gives an instruction step. -/
def quietInputs : Inputs :=
  { rst := false, romValid := false, romByte := 0#8, bootGo := false, stop := false, keys := 0#16, rnd := 0#8,
    tick := .instruction }

/-- The environment at reset: the control inputs at rest, the data inputs free values (log entry 3). -/
def initialEnv : Env :=
  { now := { quietInputs with
      romByte := (Config.freeInputs 0).romByte
      keys := (Config.freeInputs 0).keys
      rnd := (Config.freeInputs 0).rnd }
    script := [], held := false, drawn := 1 }

end Sys2Proof.Machine

namespace Sys2Proof

/-- `P_INSTR = F_CLK / 500` (60_exceptions.md R214). -/
def Params.pInstr (p : Params) : Nat := p.fClk / 500

/-- `P_TIMER = F_CLK / 60` (60_exceptions.md R214). -/
def Params.pTimer (p : Params) : Nat := p.fClk / 60

/-- The legal parameters: `F_CLK` is a positive multiple of 3000 Hz (00_scope.md R5, 60_exceptions.md R214). -/
def Params.legal (p : Params) : Bool := decide (0 < p.fClk) && decide (p.fClk % 3000 = 0)

end Sys2Proof
end

