-- ==== Sys2Proof/Machine/State.lean ====
section
/-! DEFINITION. The state of the core as plain data: every piece of 10_state.md sections 1 to 11, the parameters of the
run, and the environment's inputs; and the state after reset (10_state.md R45, 70_reset_and_hazards.md R240). -/

namespace Sys2Proof.Machine

/-- Memory `M` (10_state.md R29, 20_memory.md R60) as the list of the cells that do not hold 0, addresses strictly
rising; an unlisted cell reads as 0, which is what reset leaves in every cell (70_reset_and_hazards.md R240). -/
abbrev Memory := List Host.Cell

/-- The framebuffer: 32 rows of 64 pixels, `true` a set pixel (10_state.md R28). -/
abbrev Framebuffer := Vector (Vector Bool 64) 32

/-- The run states (10_state.md R30). -/
inductive RunState where
  | booting
  | running
  | halted
  deriving DecidableEq, Repr

/-- `HALT_CAUSE` (10_state.md R31, 60_exceptions.md R200). -/
inductive HaltCause where
  /-- Code 0: the core has not halted. -/
  | notHalted
  /-- Code 1: the external stop request (60_exceptions.md R205). -/
  | stop
  /-- Code 2: the word matches no row of the opcode map (60_exceptions.md R201). -/
  | unrecognizedInstruction
  /-- Code 3: a call with all 16 slots in use (60_exceptions.md R202). -/
  | stackOverflow
  /-- Code 4: a return with an empty stack (60_exceptions.md R202). -/
  | stackUnderflow
  /-- Code 5: an address above 4095 would be accessed (60_exceptions.md R203). -/
  | memoryOutOfRange
  /-- Code 6: `0nnn` under `SYS_POLICY = fault` (60_exceptions.md R204). -/
  | sysUnsupported
  /-- Code 7: a 3585th ROM byte (60_exceptions.md R204). -/
  | romTooLarge
  deriving DecidableEq, Repr

/-- The state of the machine. -/
structure State where
  /-- `V[0]` to `V[15]`; `V[15]` is `VF` (10_state.md R20, R22). -/
  v : Vector Byte 16
  /-- `I`, the index register (10_state.md R23). -/
  i : Word
  /-- The program counter (10_state.md R24). -/
  pc : Word
  /-- `STACK`, sixteen return addresses (10_state.md R25). -/
  stack : Vector Word 16
  /-- `SP`, the next free slot, 0 to 16 (10_state.md R26). -/
  sp : Fin 17
  /-- `DT`, the delay timer (10_state.md R27). -/
  dt : Byte
  /-- `ST`, the sound timer (10_state.md R27). -/
  st : Byte
  /-- `FB` (10_state.md R28). -/
  fb : Framebuffer
  /-- `M` (10_state.md R29). -/
  mem : Memory
  /-- `RUN` (10_state.md R30). -/
  run : RunState
  /-- `HALT_CAUSE` (10_state.md R31). -/
  haltCause : HaltCause
  /-- `HALT_INFO` (10_state.md R31). -/
  haltInfo : Word
  /-- `ROM_CNT`, ROM bytes delivered, 0 to 3584 (10_state.md R43). -/
  romCnt : Fin 3585
  /-- `CNT_INSTR` of the clocked form (10_state.md R32, 60_exceptions.md R214). -/
  cntInstr : Nat
  /-- `CNT_TIMER` of the clocked form (10_state.md R32, 60_exceptions.md R214). -/
  cntTimer : Nat
  /-- Output `fb_valid`: the step that made this state published a snapshot (10_state.md R42). -/
  fbValid : Bool
  /-- Output `fb_data`: the last snapshot published (10_state.md R42, R44, 60_exceptions.md R218). -/
  fbData : Framebuffer
  /-- Output `retire`: the step that made this state completed an instruction (10_state.md R42, 60_exceptions.md R221). -/
  retire : Bool
  /-- Output `retire_word`: the word of the last instruction completed (10_state.md R42). -/
  retireWord : Word
  /-- The parameters of the run; no step writes them (00_scope.md R11). -/
  params : Params
  /-- The environment's inputs (10_state.md R40 to R42). -/
  env : Env
  deriving DecidableEq, Repr

/-- Reasons to stop with a fault: none. Every invalid condition of the spec is a halt whose entry 60_exceptions.md R206
describes, so it is a next state; nobody raises a fault, which is safe (log entry 10). -/
inductive Fault where
  deriving DecidableEq, Repr

/-- Reasons to refuse. -/
inductive Refusal where
  /-- Raised by `exec`'s arm of an instruction that has no meaning yet; safe. No arm of this model raises it. -/
  | notModelled (mnemonic : String)
  deriving DecidableEq, Repr

/-- The outcome of a step or of an instruction. -/
abbrev Result := Host.Outcome State Fault Refusal

/-- The framebuffer with no pixel set (10_state.md R28, 43_display.md R170). -/
def blankFramebuffer : Framebuffer := Vector.replicate 32 (Vector.replicate 64 false)

/-- The state the reset input makes: the column "on entering Booting" of 10_state.md R45 (70_reset_and_hazards.md
R240). The parameters and the environment are not the core's to reset. The outputs' values are log entry 7, those of
the two counters log entry 8. -/
def State.powerOn (p : Params) (e : Env) : State :=
  { v := Vector.replicate 16 0#8, i := 0#16, pc := 0#16, stack := Vector.replicate 16 0#16, sp := 0, dt := 0#8, st := 0#8
    fb := blankFramebuffer, mem := [], run := .booting, haltCause := .notHalted, haltInfo := 0#16, romCnt := 0
    cntInstr := 0, cntTimer := 0
    fbValid := false, fbData := blankFramebuffer, retire := false, retireWord := 0#16
    params := p, env := e }

/-- The machine right after reset, with the default parameters (10_state.md R45, 00_scope.md R5). -/
def State.reset : State := State.powerOn defaultParams initialEnv

end Sys2Proof.Machine
end

