-- ==== Sys2Proof/Machine/Ops.lean ====
section
/-! DEFINITION. The named operations over registers, stack, memory, framebuffer, timers and inputs (00_scope.md R8), and
the one way a fault is taken (60_exceptions.md R206). There is no return from a fault: `Halted` is terminal (R207). -/

namespace Sys2Proof.Machine

/-! Registers. -/

/-- `V[x]` (00_scope.md R8, 10_state.md R20). -/
def State.reg (s : State) (x : Reg) : Byte := s.v[x.val]

/-- `V[x] <- b` (00_scope.md R8). -/
def State.setReg (s : State) (x : Reg) (b : Byte) : State := { s with v := s.v.set x.val b }

/-- Number of the flag register `VF` (10_state.md R22). -/
abbrev vf : Reg := 15

/-- `VF <- f`, the whole register becoming 0 or 1 (10_state.md R22). -/
def State.setFlag (s : State) (f : Bool) : State := s.setReg vf (if f then 1#8 else 0#8)

/-- Result first, flag last: with x = 15 the flag survives (41_alu.md R153). -/
def State.setResultAndFlag (s : State) (x : Reg) (b : Byte) (f : Bool) : State := (s.setReg x b).setFlag f

/-- `I <- a` (00_scope.md R8). -/
def State.setI (s : State) (a : Word) : State := { s with i := a }

/-- `pc <- a` (00_scope.md R8). -/
def State.setPc (s : State) (a : Word) : State := { s with pc := a }

/-- `pc <- (pc + 2) mod 65536` (10_state.md R24). -/
def State.advancePc (s : State) : State := s.setPc (s.pc + 2#16)

/-- `pc0 = (pc - 2) mod 65536`, the address the instruction was fetched from (00_scope.md R9). -/
def State.pc0 (s : State) : Word := s.pc - 2#16

/-- The skip of a conditional skip: passes over one word when c holds (40_flow.md R129 f). -/
def State.skipIf (s : State) (c : Bool) : State := s.setPc (if c then s.pc + 2#16 else s.pc)

/-! Faults. -/

/-- Taking a fault or the stop request: `Halt(cause, info)` (60_exceptions.md R206). Nothing else is written, no
register is saved and control goes nowhere; the pc is left as the cycle has it (R209). -/
def State.halt (s : State) (c : HaltCause) (info : Word) : State :=
  { s with run := .halted, haltCause := c, haltInfo := info }

/-! The return stack. -/

/-- `STACK[SP] <- a`, `SP <- SP + 1`; none when all 16 slots are in use (10_state.md R25, R26). -/
def State.push? (s : State) (a : Word) : Option State :=
  if h : s.sp.val < 16 then some { s with stack := s.stack.set s.sp.val a, sp := ⟨s.sp.val + 1, by omega⟩ } else none

/-- `SP <- SP - 1`, then the slot read, which keeps its value; none when the stack is empty (10_state.md R25, R26). -/
def State.pop? (s : State) : Option (Word × State) :=
  if h : 0 < s.sp.val then some (s.stack[s.sp.val - 1], { s with sp := ⟨s.sp.val - 1, by omega⟩ }) else none

/-! Memory. -/

/-- The highest address of a cell (20_memory.md R60). -/
abbrev lastAddress : Nat := 4095

/-- `M[a]`: the listed byte, else 0 (00_scope.md R8). -/
def Memory.read : Memory → Nat → Byte
  | [], _ => 0#8
  | (k, b) :: rest, a => if a = k then b else Memory.read rest a

/-- `M[a] <- b`, keeping the list's form: rising addresses, no listed 0 (00_scope.md R8). -/
def Memory.write : Memory → Nat → Byte → Memory
  | [], a, b => if b = 0#8 then [] else [(a, b)]
  | (k, c) :: rest, a, b =>
    if a < k then (if b = 0#8 then (k, c) :: rest else (a, b) :: (k, c) :: rest)
    else if a = k then (if b = 0#8 then rest else (k, b) :: rest)
    else (k, c) :: Memory.write rest a b

/-- Single-byte writes at ascending addresses from a on (20_memory.md R61). -/
def Memory.writeBytes (m : Memory) (a : Nat) : List Byte → Memory
  | [] => m
  | b :: bs => Memory.writeBytes (Memory.write m a b) (a + 1) bs

/-- The form of a memory whose listed addresses are at least lo. -/
def Memory.wfFrom : Nat → Memory → Bool
  | _, [] => true
  | lo, (k, b) :: rest => decide (lo ≤ k) && decide (k ≤ lastAddress) && b != 0#8 && Memory.wfFrom (k + 1) rest

/-- The one canonical form: addresses strictly rising, none above 4095, no listed 0. -/
def Memory.wf (m : Memory) : Bool := Memory.wfFrom 0 m

/-- The address `MemoryOutOfRange` reports for an access of n bytes from a on, none when all of it is in the memory:
the lowest address of the access above 4095, computed without any wrap (20_memory.md R62, R63, 42_index_memory.md R166,
60_exceptions.md R203). An access of no byte is in range (43_display.md R171 b). -/
def outOfRange? (a n : Nat) : Option Nat :=
  if 0 < n ∧ lastAddress < a + n - 1 then some (max a 4096) else none

/-- An instruction's transfer of n bytes from a on: the whole range is checked first, a bad one halts with nothing
transferred, a good one leaves the state done (42_index_memory.md R166, 60_exceptions.md R209). -/
def State.transfer (s : State) (a n : Nat) (done : State) : State :=
  match outOfRange? a n with
  | some bad => s.halt .memoryOutOfRange (BitVec.ofNat 16 bad)
  | none => done

/-- `MemRead(a, 2)`, high-order byte first (00_scope.md R8, 20_memory.md R64). -/
def Memory.readWord (m : Memory) (a : Nat) : Word := m.read a ++ m.read (a + 1)

/-- Registers 0 to x in rising order, what `Fx55` stores (42_index_memory.md R164). -/
def State.regsUpTo (s : State) (x : Reg) : List Byte := s.v.toList.take (x.val + 1)

/-- The registers after registers 0 to x are loaded from ascending addresses, the others kept (42_index_memory.md
R165). -/
def State.loadedRegs (s : State) (x : Reg) (a : Nat) : Vector Byte 16 :=
  Vector.ofFn fun k : Fin 16 => if k.val ≤ x.val then s.mem.read (a + k.val) else s.v[k.val]

/-- All the registers replaced. -/
def State.setRegs (s : State) (v : Vector Byte 16) : State := { s with v := v }

/-- `M` replaced. -/
def State.setMem (s : State) (m : Memory) : State := { s with mem := m }

/-! The framebuffer. -/

/-- `FB[r][c]` (10_state.md R28). -/
def Framebuffer.pixel (fb : Framebuffer) (r : Fin 32) (c : Fin 64) : Bool := fb[r.val][c.val]

/-- `FB[r][c] <- FB[r][c] ^ 1` (43_display.md R171). -/
def Framebuffer.toggle (fb : Framebuffer) (r : Fin 32) (c : Fin 64) : Framebuffer :=
  fb.set r.val (fb[r.val].set c.val (!fb[r.val][c.val]))

/-- `FB` replaced. -/
def State.setFb (s : State) (fb : Framebuffer) : State := { s with fb := fb }

/-- Bit k of the port `fb_data`: bit 64 * r + c is `FB[r][c]` (10_state.md R42, 60_exceptions.md R218). -/
def State.fbDataBit (s : State) (k : Fin 2048) : Bool :=
  Framebuffer.pixel s.fbData ⟨k.val / 64, by omega⟩ ⟨k.val % 64, by omega⟩

/-! Timers. -/

/-- `DT <- b` (00_scope.md R8). -/
def State.setDt (s : State) (b : Byte) : State := { s with dt := b }

/-- `ST <- b` (00_scope.md R8). -/
def State.setSt (s : State) (b : Byte) : State := { s with st := b }

/-- One decrement, with floor at zero (60_exceptions.md R212). -/
def countDown (b : Byte) : Byte := if b = 0#8 then 0#8 else b - 1#8

/-! Inputs. -/

/-- `Keys`, the sample this step takes (10_state.md R40). -/
def State.keys (s : State) : BitVec 16 := s.env.now.keys

/-- `Rnd`, the sample this step takes (10_state.md R41). -/
def State.rnd (s : State) : Byte := s.env.now.rnd

/-- `b in Keys`: the whole byte is tested, so above 15 never (44_keys_timers.md R180). -/
def keyPressed (keys : BitVec 16) (b : Byte) : Bool := decide (b.toNat < 16) && keys.getLsbD b.toNat

/-- `min(Keys)`, none when no key is pressed (44_keys_timers.md R183). -/
def lowestKey? (keys : BitVec 16) : Option Nat := (List.range 16).find? fun k => keys.getLsbD k

/-! Codes of the outputs. -/

/-- The port `run_state` (10_state.md R42). -/
def RunState.code : RunState → BitVec 2
  | .booting => 0
  | .running => 1
  | .halted => 2

/-- The codes of `HALT_CAUSE` (60_exceptions.md R200). -/
def HaltCause.code : HaltCause → BitVec 4
  | .notHalted => 0
  | .stop => 1
  | .unrecognizedInstruction => 2
  | .stackOverflow => 3
  | .stackUnderflow => 4
  | .memoryOutOfRange => 5
  | .sysUnsupported => 6
  | .romTooLarge => 7

end Sys2Proof.Machine
end

