-- ==== Sys2Proof/Machine/Operands.lean ====
section
/-! DEFINITION. The operand forms (30_encoding.md R93, 42_index_memory.md R166): the immediates zero-extended, the indexed
target, the font address, the data addresses through `I`, and the wrapped pixel coordinates (43_display.md R173). -/

namespace Sys2Proof.Machine

/-- `nnn` as a 16-bit address: zero-extended, absolute, not scaled (30_encoding.md R93). -/
def addressOf (nnn : BitVec 12) : Word := nnn.setWidth 16

/-- A byte as a 16-bit unsigned value (00_scope.md R7). -/
def wordOf (b : Byte) : Word := b.setWidth 16

/-- The target `nnn + V[0]` (40_flow.md R124). -/
def indexedTarget (nnn : BitVec 12) (v0 : Byte) : Word := addressOf nnn + wordOf v0

/-- `5 * Vx`, the address of a glyph, the whole byte multiplied (42_index_memory.md R162). -/
def glyphAddress (b : Byte) : Word := 5#16 * wordOf b

/-- `EA(k) = I + k`, an unbounded sum (42_index_memory.md R166). -/
def State.ea (s : State) (k : Nat) : Nat := s.i.toNat + k

/-- The three digits of a byte, hundreds first (42_index_memory.md R163). -/
def decimalDigits (b : Byte) : List Byte :=
  [BitVec.ofNat 8 (b.toNat / 100), BitVec.ofNat 8 (b.toNat / 10 % 10), BitVec.ofNat 8 (b.toNat % 10)]

/-- Row of sprite row k: `(y0 + k) mod 32` (43_display.md R173). -/
def pixelRow (y0 : Byte) (k : Nat) : Fin 32 := Fin.ofNat 32 (y0.toNat + k)

/-- Column of sprite column j: `(x0 + j) mod 64` (43_display.md R173). -/
def pixelColumn (x0 : Byte) (j : Nat) : Fin 64 := Fin.ofNat 64 (x0.toNat + j)

/-- Sprite column j of a row byte, bit 7 the leftmost (43_display.md R173). -/
def spriteBit (b : Byte) (j : Nat) : Bool := b.getLsbD (7 - j)

end Sys2Proof.Machine
end

