-- ==== Sys2Proof/Machine/Flags.lean ====
section
/-! DEFINITION. What goes to `VF` (10_state.md R22), computed from the exact result or from the operand before the shift
(41_alu.md R152). -/

namespace Sys2Proof.Machine

/-- Carry of an addition: the unmasked sum exceeds 255 (41_alu.md R146). -/
def carryOfAdd (a b : Byte) : Bool := decide (255 < a.toNat + b.toNat)

/-- Not-borrow of a subtraction: the minuend is strictly greater (41_alu.md R152 e). -/
def notBorrow (minuend subtrahend : Byte) : Bool := decide (subtrahend.toNat < minuend.toNat)

/-- Bit 0 before a shift right (41_alu.md R148). -/
def shiftedOutRight (a : Byte) : Bool := a.getLsbD 0

/-- Bit 7 before a shift left (41_alu.md R150). -/
def shiftedOutLeft (a : Byte) : Bool := a.getLsbD 7

end Sys2Proof.Machine
end

