-- ==== Sys2Proof/Machine/Alu.lean ====
section
/-! DEFINITION. Register load, arithmetic, logic, shift and random (41_alu.md). All leave pc = pc0 + 2. Operands are read
before the result is written, the flag is written last (R153). -/

namespace Sys2Proof.Machine

/-- `LD Vx, kk` (41_alu.md R140). -/
def execLdImm (x : Reg) (kk : Byte) (s : State) : Result := .next (s.setReg x kk)

/-- `ADD Vx, kk`, no flag (41_alu.md R141). -/
def execAddImm (x : Reg) (kk : Byte) (s : State) : Result := .next (s.setReg x (s.reg x + kk))

/-- `LD Vx, Vy` (41_alu.md R142). -/
def execLdReg (x y : Reg) (s : State) : Result := .next (s.setReg x (s.reg y))

/-- `OR Vx, Vy` (41_alu.md R143). -/
def execOrReg (x y : Reg) (s : State) : Result := .next (s.setReg x (s.reg x ||| s.reg y))

/-- `AND Vx, Vy` (41_alu.md R144). -/
def execAndReg (x y : Reg) (s : State) : Result := .next (s.setReg x (s.reg x &&& s.reg y))

/-- `XOR Vx, Vy` (41_alu.md R145). -/
def execXorReg (x y : Reg) (s : State) : Result := .next (s.setReg x (s.reg x ^^^ s.reg y))

/-- `ADD Vx, Vy` (41_alu.md R146). -/
def execAddReg (x y : Reg) (s : State) : Result :=
  .next (s.setResultAndFlag x (s.reg x + s.reg y) (carryOfAdd (s.reg x) (s.reg y)))

/-- `SUB Vx, Vy`, Vx minus Vy (41_alu.md R147). -/
def execSub (x y : Reg) (s : State) : Result :=
  .next (s.setResultAndFlag x (s.reg x - s.reg y) (notBorrow (s.reg x) (s.reg y)))

/-- `SHR Vx`, in place, y ignored (41_alu.md R148, 30_encoding.md R99). -/
def execShr (x _y : Reg) (s : State) : Result :=
  .next (s.setResultAndFlag x (s.reg x >>> 1) (shiftedOutRight (s.reg x)))

/-- `SUBN Vx, Vy`, Vy minus Vx (41_alu.md R149). -/
def execSubn (x y : Reg) (s : State) : Result :=
  .next (s.setResultAndFlag x (s.reg y - s.reg x) (notBorrow (s.reg y) (s.reg x)))

/-- `SHL Vx`, in place, y ignored (41_alu.md R150, 30_encoding.md R99). -/
def execShl (x _y : Reg) (s : State) : Result :=
  .next (s.setResultAndFlag x (s.reg x <<< 1) (shiftedOutLeft (s.reg x)))

/-- `RND Vx, kk` (41_alu.md R151). -/
def execRnd (x : Reg) (kk : Byte) (s : State) : Result := .next (s.setReg x (s.rnd &&& kk))

end Sys2Proof.Machine
end

