-- ==== Sys2Proof/Machine/Display.lean ====
section
/-! DEFINITION. The display and the sprite-blit engine (43_display.md). Both instructions leave pc = pc0 + 2. -/

namespace Sys2Proof.Machine

/-- `CLS` (43_display.md R170). -/
def execCls (s : State) : Result := .next (s.setFb blankFramebuffer)

/-- The pixels under the 1 bits of one sprite row byte b, sprite row k, left first (43_display.md R171, R173). -/
def rowPixels (x0 y0 b : Byte) (k : Nat) : List (Fin 32 × Fin 64) :=
  ((List.range 8).filter (spriteBit b)).map fun j => (pixelRow y0 k, pixelColumn x0 j)

/-- The pixels under the 1 bits of the sprite of n rows at `I`, top row first, in the order of R171's loops. -/
def State.spritePixels (s : State) (x0 y0 : Byte) (n : Nat) : List (Fin 32 × Fin 64) :=
  (List.range n).flatMap fun k => rowPixels x0 y0 (s.mem.read (s.ea k)) k

/-- The body of R171's loops: each pixel is toggled, and f becomes 1 if it was set before. -/
def blit : List (Fin 32 × Fin 64) → Framebuffer → Bool → Framebuffer × Bool
  | [], fb, f => (fb, f)
  | (r, c) :: rest, fb, f => blit rest (fb.toggle r c) (f || fb.pixel r c)

/-- `DRW Vx, Vy, n` (43_display.md R171): both coordinates are read before `VF` is written. -/
def execDrw (x y : Reg) (n : Fin 16) (s : State) : Result :=
  let drawn := blit (s.spritePixels (s.reg x) (s.reg y) n.val) s.fb false
  .next (s.transfer (s.ea 0) n.val ((s.setFb drawn.1).setFlag drawn.2))

end Sys2Proof.Machine
end

