-- ==== Sys2Proof/Machine/Flow.lean ====
section
/-! DEFINITION. Control flow (40_flow.md). Every meaning starts with pc = pc0 + 2 (00_scope.md R9). No transfer checks its
target: a bad one faults at the next fetch (R129 e). -/

namespace Sys2Proof.Machine

/-- `SYS nnn`, by the parameter `SYS_POLICY` (40_flow.md R120); the word reported is `0x0nnn`. -/
def execSys (nnn : BitVec 12) (s : State) : Result :=
  match s.params.sysPolicy with
  | .fault => .next (s.halt .sysUnsupported (addressOf nnn))
  | .ignore => .next s
  | .jump => .next (s.setPc (addressOf nnn))

/-- `RET` (40_flow.md R121). -/
def execRet (s : State) : Result :=
  match s.pop? with
  | none => .next (s.halt .stackUnderflow s.pc0)
  | some (a, t) => .next (t.setPc a)

/-- `JP nnn` (40_flow.md R122). -/
def execJp (nnn : BitVec 12) (s : State) : Result := .next (s.setPc (addressOf nnn))

/-- `CALL nnn` (40_flow.md R123): the pushed address is the incremented pc. -/
def execCall (nnn : BitVec 12) (s : State) : Result :=
  match s.push? s.pc with
  | none => .next (s.halt .stackOverflow s.pc0)
  | some t => .next (t.setPc (addressOf nnn))

/-- `JP V0, nnn` (40_flow.md R124). -/
def execJpV0 (nnn : BitVec 12) (s : State) : Result := .next (s.setPc (indexedTarget nnn (s.reg 0)))

/-- `SE Vx, kk` (40_flow.md R125). -/
def execSeImm (x : Reg) (kk : Byte) (s : State) : Result := .next (s.skipIf (s.reg x == kk))

/-- `SNE Vx, kk` (40_flow.md R126). -/
def execSneImm (x : Reg) (kk : Byte) (s : State) : Result := .next (s.skipIf (s.reg x != kk))

/-- `SE Vx, Vy` (40_flow.md R127). -/
def execSeReg (x y : Reg) (s : State) : Result := .next (s.skipIf (s.reg x == s.reg y))

/-- `SNE Vx, Vy` (40_flow.md R128). -/
def execSneReg (x y : Reg) (s : State) : Result := .next (s.skipIf (s.reg x != s.reg y))

end Sys2Proof.Machine
end

