-- ==== Sys2Proof/Machine/IndexMemory.lean ====
section
/-! DEFINITION. The index register and the memory transfers (42_index_memory.md). All leave pc = pc0 + 2; no transfer
changes `I` (R164, R165, R166). -/

namespace Sys2Proof.Machine

/-- `LD I, nnn` (42_index_memory.md R160). -/
def execLdI (nnn : BitVec 12) (s : State) : Result := .next (s.setI (addressOf nnn))

/-- `ADD I, Vx`, no flag (42_index_memory.md R161). -/
def execAddI (x : Reg) (s : State) : Result := .next (s.setI (s.i + wordOf (s.reg x)))

/-- `LD F, Vx` (42_index_memory.md R162). -/
def execLdFont (x : Reg) (s : State) : Result := .next (s.setI (glyphAddress (s.reg x)))

/-- `LD B, Vx` (42_index_memory.md R163). -/
def execLdBcd (x : Reg) (s : State) : Result :=
  .next (s.transfer (s.ea 0) 3 (s.setMem (s.mem.writeBytes (s.ea 0) (decimalDigits (s.reg x)))))

/-- `LD [I], Vx` (42_index_memory.md R164). -/
def execLdMemVx (x : Reg) (s : State) : Result :=
  .next (s.transfer (s.ea 0) (x.val + 1) (s.setMem (s.mem.writeBytes (s.ea 0) (s.regsUpTo x))))

/-- `LD Vx, [I]` (42_index_memory.md R165). -/
def execLdVxMem (x : Reg) (s : State) : Result :=
  .next (s.transfer (s.ea 0) (x.val + 1) (s.setRegs (s.loadedRegs x (s.ea 0))))

end Sys2Proof.Machine
end

