-- ==== Sys2Proof/Machine/KeysTimers.lean ====
section
/-! DEFINITION. Keys and timers (44_keys_timers.md). Each key instruction acts on the one sample of its step (R186). -/

namespace Sys2Proof.Machine

/-- `SKP Vx` (44_keys_timers.md R180). -/
def execSkp (x : Reg) (s : State) : Result := .next (s.skipIf (keyPressed s.keys (s.reg x)))

/-- `SKNP Vx` (44_keys_timers.md R181). -/
def execSknp (x : Reg) (s : State) : Result := .next (s.skipIf (!keyPressed s.keys (s.reg x)))

/-- `LD Vx, DT` (44_keys_timers.md R182). -/
def execLdVxDt (x : Reg) (s : State) : Result := .next (s.setReg x s.dt)

/-- `LD Vx, K` (44_keys_timers.md R183): with no key pressed the increment of pc is undone, so the word is fetched
again at the next instruction step. -/
def execLdVxKey (x : Reg) (s : State) : Result :=
  .next (match lowestKey? s.keys with
    | none => s.setPc s.pc0
    | some k => s.setReg x (BitVec.ofNat 8 k))

/-- `LD DT, Vx` (44_keys_timers.md R184). -/
def execLdDtVx (x : Reg) (s : State) : Result := .next (s.setDt (s.reg x))

/-- `LD ST, Vx` (44_keys_timers.md R185). -/
def execLdStVx (x : Reg) (s : State) : Result := .next (s.setSt (s.reg x))

end Sys2Proof.Machine
end

