-- ==== Sys2Proof/Machine/Cycle.lean ====
section
/-! DEFINITION. The instruction step (30_encoding.md R90) and the timer step (60_exceptions.md R212). -/

namespace Sys2Proof.Machine

/-- The pulses of one step are low in the next unless it raises them again (10_state.md R42). -/
def State.lowerPulses (s : State) : State := { s with retire := false, fbValid := false }

/-- The pulse `retire` with `retire_word` (60_exceptions.md R221). -/
def State.pulseRetire (s : State) (w : Word) : State := { s with retire := true, retireWord := w }

/-- Step 6 of the instruction cycle: the pulse, "not if a fault was raised" (30_encoding.md R90). -/
def State.retireUnlessHalted (s : State) (w : Word) : State :=
  if s.run = .halted then s else s.pulseRetire w

/-- The word at pc (30_encoding.md R91). -/
def State.fetchedWord (s : State) : Word := s.mem.readWord s.pc.toNat

/-- Steps 5 and 6 for the selected instruction, from the state after the increment of pc (30_encoding.md R90). -/
def State.runInstr (s : State) (i : Instr) (w : Word) : Result :=
  match exec i s with
  | .next t => .next (t.retireUnlessHalted w)
  | .fault e => .fault e
  | .refused e => .refused e

/-- Steps 2 to 6 for a fetched word (30_encoding.md R90); the pc is already incremented when an unrecognized word halts
the core (30_encoding.md R97). -/
def State.runWord (s : State) (w : Word) : Result :=
  match decode w with
  | .instr i => s.advancePc.runInstr i w
  | .unrecognized u => .next (s.advancePc.halt .unrecognizedInstruction u)

/-- One instruction step (30_encoding.md R90, R91): a fetch that reaches past 4095 halts with pc not incremented. -/
def State.instructionStep (s : State) : Result :=
  match outOfRange? s.pc.toNat 2 with
  | some bad => .next (s.halt .memoryOutOfRange (BitVec.ofNat 16 bad))
  | none => s.runWord s.fetchedWord

/-- One timer step (60_exceptions.md R212), the publish included (R218). -/
def State.timerStep (s : State) : State :=
  { s with dt := countDown s.dt, st := countDown s.st, fbData := s.fb, fbValid := true }

end Sys2Proof.Machine
end

