-- ==== Sys2Proof/Machine/Scheduler.lean ====
section
/-! DEFINITION. What one step of the machine does in each run state (10_state.md R30): boot (70_reset_and_hazards.md R241,
R242), the two forms of the scheduler (60_exceptions.md R213 to R215), and the passing of the inputs. -/

namespace Sys2Proof

/-- The inputs after one sample was taken: the script's next, or after its end the levels held or a free value
(log entry 2). -/
def Env.advance (e : Env) : Env :=
  match e.script with
  | i :: rest => { e with now := i, script := rest }
  | [] => if e.held then e else { e with now := Config.freeInputs e.drawn, drawn := e.drawn + 1 }

/-- The inputs of a step that lets the core run: no reset, no stop, an instruction step. -/
def Inputs.letRun (i : Inputs) : Inputs := { i with rst := false, stop := false, tick := .instruction }

end Sys2Proof

namespace Sys2Proof.Machine

/-! The environment. -/

/-- The environment moves on to its next sample. -/
def State.nextSample (s : State) : State := { s with env := s.env.advance }

/-! Booting. -/

/-- Address of the first ROM byte and first pc (70_reset_and_hazards.md R241). -/
abbrev loadAddress : Nat := 512

/-- One delivered ROM byte: stored at `M[512 + ROM_CNT]`, or the halt when 3584 bytes are there already
(10_state.md R43, 70_reset_and_hazards.md R241, R242). -/
def State.loadRomByte (s : State) (b : Byte) : State :=
  if h : s.romCnt.val < 3584 then
    { s with mem := s.mem.write (loadAddress + s.romCnt.val) b, romCnt := ⟨s.romCnt.val + 1, by omega⟩ }
  else s.halt .romTooLarge 3584#16

/-- The value a counter of the clocked form is loaded with, its period less 1; the interleaved form has no counters
(60_exceptions.md R213, R214). -/
def State.counterOnEntry (s : State) (period old : Nat) : Nat :=
  match s.params.form with
  | .clocked => period - 1
  | .interleaved => old

/-- The end of boot: the font in place, pc at 512, the counters loaded, `RUN = Running` (70_reset_and_hazards.md R241). -/
def State.enterRunning (s : State) : State :=
  { s with
    mem := s.mem.writeBytes 0 s.params.font.toList
    pc := 512#16
    cntInstr := s.counterOnEntry s.params.pInstr s.cntInstr
    cntTimer := s.counterOnEntry s.params.pTimer s.cntTimer
    run := .running }

/-- The ROM load port in one step: a byte is taken only while `rom_valid` is 1 (10_state.md R43). -/
def State.takeRomByte (s : State) : State := if s.env.now.romValid then s.loadRomByte s.env.now.romByte else s

/-- One step in `Booting`: stop first, then the load port, then `boot_go` unless the byte halted the core (10_state.md
R43, 60_exceptions.md R205, 70_reset_and_hazards.md R241, R242, log entry 12). -/
def State.bootStep (s : State) : State :=
  if s.env.now.stop then s.halt .stop 0#16
  else
    let t := s.takeRomByte
    if t.run = .booting ∧ s.env.now.bootGo then t.enterRunning else t

/-! Running. -/

/-- `if CNT = 0 then (the step) ; CNT <- P - 1 else CNT <- CNT - 1` for the counter's new value (60_exceptions.md R214). -/
def countEdge (cnt period : Nat) : Nat := if cnt = 0 then period - 1 else cnt - 1

/-- The first half of an edge of the clocked form: the instruction step if it is due, and its counter. -/
def State.instructionEdge (s : State) : Result :=
  let counted := fun t : State => { t with cntInstr := countEdge s.cntInstr s.params.pInstr }
  if s.cntInstr = 0 then
    match s.instructionStep with
    | .next t => .next (counted t)
    | .fault e => .fault e
    | .refused e => .refused e
  else .next (counted s)

/-- The second half of an edge: the timer step if it is due, and its counter, "only if the instruction step did not halt
the core" (60_exceptions.md R214, R215). -/
def State.timerEdge (s : State) : State :=
  if s.run = .running then
    { (if s.cntTimer = 0 then s.timerStep else s) with cntTimer := countEdge s.cntTimer s.params.pTimer }
  else s

/-- One scheduler iteration without stop: the chosen step of the interleaved form (60_exceptions.md R213), or one edge of
the clocked form (R214). -/
def State.fireTicks (s : State) : Result :=
  match s.params.form with
  | .interleaved =>
    match s.env.now.tick with
    | .instruction => s.instructionStep
    | .timer => .next s.timerStep
  | .clocked =>
    match s.instructionEdge with
    | .next t => .next t.timerEdge
    | .fault e => .fault e
    | .refused e => .refused e

/-- One step in `Running`: stop is sampled before any tick and wins (60_exceptions.md R205, R208). -/
def State.runStep (s : State) : Result :=
  if s.env.now.stop then .next (s.halt .stop 0#16) else s.fireTicks

/-- One step without reset, the pulses of the last step already low. `Halted` is terminal (60_exceptions.md R207). -/
def State.iterate (s : State) : Result :=
  match s.run with
  | .booting => .next s.bootStep
  | .running => s.runStep
  | .halted => .next s

/-! Placing a word for the next step (log entry 13). -/

/-- The address the next instruction step fetches from: pc in `Running`, 512 otherwise or when pc is no fetch address. -/
def State.fetchAddress (s : State) : Nat :=
  if s.run = .running ∧ s.pc.toNat < lastAddress then s.pc.toNat else loadAddress

/-- The state with the word w where the next step fetches and with everything that step needs to fetch it: boot is done
if it was not, and no halt, reset or stop is in the way. -/
def State.placeWord (s : State) (w : Word) : State :=
  let t := if s.run = .booting then { s.enterRunning with romCnt := max s.romCnt 2 } else s
  { t with
    mem := t.mem.writeBytes s.fetchAddress (bytesOfWord w)
    pc := BitVec.ofNat 16 s.fetchAddress
    run := .running, haltCause := .notHalted, haltInfo := 0#16
    cntInstr := (match s.params.form with | .clocked => 0 | .interleaved => t.cntInstr)
    env := { s.env with now := s.env.now.letRun } }

end Sys2Proof.Machine
end

