-- ==== Sys2Proof/Machine/Step.lean ====
section
/-! DEFINITION. The step of the machine, and the placing of one instruction word for the next step. -/

namespace Sys2Proof.Machine

/-- One step: the reset input wins over everything (70_reset_and_hazards.md R240); otherwise the run state says what
happens (10_state.md R30). Every step takes one sample of the inputs. -/
def step (s : State) : Host.Outcome State Fault Refusal :=
  if s.env.now.rst then .next (State.powerOn s.params s.env).nextSample
  else
    match s.lowerPulses.iterate with
    | .next t => .next t.nextSample
    | .fault e => .fault e
    | .refused e => .refused e

/-- The state whose next step fetches and runs the word w of nbits bits (log entry 13): from `Booting` it stands for the
load of that word as the ROM image and the end of boot (70_reset_and_hazards.md R241). -/
def State.withFetchWord (s : State) (nbits w : Nat) : State := s.placeWord (BitVec.ofNat 16 (w % 2 ^ nbits))

end Sys2Proof.Machine
end

