-- ==== Sys2Proof/Safety.lean ====
section
/-! DEFINITION. What counts as a safe run (60_exceptions.md R207), the machine's invariant, and the words the claims use:
which state an instruction writes (10_state.md R46) and how the two forms of the scheduler are compared. -/

namespace Sys2Proof.Machine

/-! Runs. -/

/-- k steps, stopping at the first outcome that is no next state. -/
def runSteps : Nat → State → Result
  | 0, s => .next s
  | k + 1, s =>
    match step s with
    | .next t => runSteps k t
    | .fault e => .fault e
    | .refused e => .refused e

/-- Nothing halted the core, no fault and no stop request: "`HALT_CAUSE` stays 0", and a halted state "is never a
successful end of a program" (60_exceptions.md R207). -/
def State.unhalted (s : State) : Bool := s.run != .halted && s.haltCause == .notHalted

/-- A safe run of k steps: no state on the way is halted, whatever the cause (60_exceptions.md R207). -/
def RunsSafely (k : Nat) (s : State) : Prop := ∀ j ≤ k, ∃ t, runSteps j s = .next t ∧ t.unhalted = true

/-- What the environment presents to boot a ROM image: its bytes one a step, then `boot_go` (10_state.md R42, R43). -/
def bootSamples (rom : List Byte) : List Inputs :=
  (rom.map fun b => { quietInputs with romValid := true, romByte := b }) ++ [{ quietInputs with bootGo := true }]

/-- The environment that does so, and keeps `boot_go` high afterwards. -/
def bootEnv (rom : List Byte) : Env :=
  { now := (bootSamples rom).headD quietInputs, script := (bootSamples rom).tail, held := true, drawn := 0 }

/-! The invariant. -/

/-- The state is the reset state but for the ROM bytes delivered so far (10_state.md R43, R45, 70_reset_and_hazards.md
R240, R241). -/
structure State.OnlyRomLoaded (s : State) : Prop where
  registers : s.v = Vector.replicate 16 0#8 ∧ s.i = 0#16 ∧ s.pc = 0#16
  stack : s.stack = Vector.replicate 16 0#16 ∧ s.sp = 0
  timers : s.dt = 0#8 ∧ s.st = 0#8
  framebuffer : s.fb = blankFramebuffer
  counters : s.cntInstr = 0 ∧ s.cntTimer = 0
  /-- Nothing was published and nothing retired. -/
  outputs : s.fbValid = false ∧ s.fbData = blankFramebuffer ∧ s.retire = false ∧ s.retireWord = 0#16
  /-- Memory holds 0 but for the cells of the ROM bytes delivered. -/
  cells : ∀ a, s.mem.read a ≠ 0#8 → loadAddress ≤ a ∧ a < loadAddress + s.romCnt.val

/-- What every step keeps. -/
structure State.Inv (s : State) : Prop where
  /-- Memory is in its one form, no cell above 4095 (20_memory.md R60). -/
  memory : s.mem.wf = true
  /-- `F_CLK` is a positive multiple of 3000 Hz (00_scope.md R5). -/
  parameters : s.params.legal = true
  /-- "While `RUN` is not `Halted` both are 0" (10_state.md R31). -/
  causeWhileUnhalted : s.run ≠ .halted → s.haltCause = .notHalted ∧ s.haltInfo = 0#16
  /-- A halted core has a cause, and its pulses are low (60_exceptions.md R206, R207). -/
  causeWhileHalted : s.run = .halted → s.haltCause ≠ .notHalted ∧ s.retire = false ∧ s.fbValid = false
  /-- The pc "cannot pass 4350 without a fetch fault first" (92_eei_decisions.md D25, 40_flow.md R124). -/
  pcBound : s.pc.toNat ≤ 4350
  /-- A slot in use holds "a value an earlier `CALL` pushed, so it is at most 4096" (40_flow.md R121). -/
  stackBound : ∀ j : Fin 16, j.val < s.sp.val → s.stack[j.val].toNat ≤ 4096
  /-- The ranges of the counters of the clocked form (10_state.md R32). -/
  counters : s.cntInstr < s.params.pInstr ∧ s.cntTimer < s.params.pTimer
  /-- Nothing but the load port acts in `Booting` (70_reset_and_hazards.md R241). -/
  booting : s.run = .booting → s.OnlyRomLoaded

/-! What an instruction writes (10_state.md R46). -/

/-- The general registers an instruction may write: its destination, and `VF` where R22 lists it. -/
def writesReg : Instr → Reg → Bool
  | .ldImm x _, z | .addImm x _, z | .ldReg x _, z | .orReg x _, z | .andReg x _, z | .xorReg x _, z
  | .rnd x _, z | .ldVxDt x, z | .ldVxKey x, z => z == x
  | .addReg x _, z | .sub x _, z | .shr x _, z | .subn x _, z | .shl x _, z => z == x || z == vf
  | .drw _ _ _, z => z == vf
  | .ldVxMem x, z => decide (z ≤ x)
  | .cls, _ | .ret, _ | .sys _, _ | .jp _, _ | .call _, _ | .seImm _ _, _ | .sneImm _ _, _ | .seReg _ _, _
  | .sneReg _ _, _ | .ldI _, _ | .jpV0 _, _ | .skp _, _ | .sknp _, _ | .ldDtVx _, _ | .ldStVx _, _
  | .addI _, _ | .ldFont _, _ | .ldBcd _, _ | .ldMemVx _, _ => false

/-- How many bytes an instruction stores, from `EA(0)` on (20_memory.md R61, 42_index_memory.md R166). -/
def storedBytes : Instr → Nat
  | .ldBcd _ => 3
  | .ldMemVx x => x.val + 1
  | .cls | .ret | .sys _ | .jp _ | .call _ | .seImm _ _ | .sneImm _ _ | .seReg _ _ | .ldImm _ _ | .addImm _ _
  | .ldReg _ _ | .orReg _ _ | .andReg _ _ | .xorReg _ _ | .addReg _ _ | .sub _ _ | .shr _ _ | .subn _ _
  | .shl _ _ | .sneReg _ _ | .ldI _ | .jpV0 _ | .rnd _ _ | .drw _ _ _ | .skp _ | .sknp _ | .ldVxDt _
  | .ldVxKey _ | .ldDtVx _ | .ldStVx _ | .addI _ | .ldFont _ | .ldVxMem _ => 0

/-- How many bytes of data an instruction reads or stores from `EA(0)` on (20_memory.md R61). -/
def transferBytes : Instr → Nat
  | .ldBcd _ => 3
  | .ldMemVx x | .ldVxMem x => x.val + 1
  | .drw _ _ n => n.val
  | .cls | .ret | .sys _ | .jp _ | .call _ | .seImm _ _ | .sneImm _ _ | .seReg _ _ | .ldImm _ _ | .addImm _ _
  | .ldReg _ _ | .orReg _ _ | .andReg _ _ | .xorReg _ _ | .addReg _ _ | .sub _ _ | .shr _ _ | .subn _ _
  | .shl _ _ | .sneReg _ _ | .ldI _ | .jpV0 _ | .rnd _ _ | .skp _ | .sknp _ | .ldVxDt _
  | .ldVxKey _ | .ldDtVx _ | .ldStVx _ | .addI _ | .ldFont _ => 0

/-- Pixel (r, c) lies under a 1 bit of the sprite of n rows at `I` drawn at (x0, y0) (43_display.md R171, R173). -/
def State.spriteCovers (s : State) (x0 y0 : Byte) (n : Nat) (r : Fin 32) (c : Fin 64) : Prop :=
  ∃ k < n, ∃ j < 8, (s.mem.read (s.i.toNat + k)).getLsbD (7 - j) = true ∧
    r.val = (y0.toNat + k) % 32 ∧ c.val = (x0.toNat + j) % 64

/-- What one timer step on u makes of the timers and the display ports in t: each timer down by one with floor at zero, the
pulse high, and bit 64 * r + c of the port the pixel of u (60_exceptions.md R212, R218, 10_state.md R42). -/
def State.CountedFrom (t u : State) : Prop :=
  t.dt.toNat = u.dt.toNat - 1 ∧ t.st.toNat = u.st.toNat - 1 ∧ t.fbValid = true ∧
    ∀ (r : Fin 32) (c : Fin 64) (k : Fin 2048), k.val = 64 * r.val + c.val → t.fbDataBit k = u.fb.pixel r c

/-! Other values at the input ports. -/

/-- The same state with other keys held (10_state.md R40). -/
def State.withKeys (s : State) (keys : BitVec 16) : State :=
  { s with env := { s.env with now := { s.env.now with keys := keys } } }

/-- The same state with another random byte (10_state.md R41). -/
def State.withRnd (s : State) (rnd : Byte) : State :=
  { s with env := { s.env with now := { s.env.now with rnd := rnd } } }

/-- The same state with other levels at the ROM load port (10_state.md R43). -/
def State.withRomPort (s : State) (valid : Bool) (byte : Byte) (go : Bool) : State :=
  { s with env := { s.env with now := { s.env.now with romValid := valid, romByte := byte, bootGo := go } } }

/-! Comparing the two forms of the scheduler (60_exceptions.md R213, R214). -/

/-- The steps an edge of the clocked form makes, in their order (60_exceptions.md R214, R215). -/
def State.dueTicks (s : State) : List Tick :=
  (if s.cntInstr = 0 then [.instruction] else []) ++ (if s.cntTimer = 0 then [.timer] else [])

/-- The same machine in the interleaved form, its schedule giving the steps ts with the present input levels. -/
def State.asInterleaved (s : State) (ts : List Tick) : State :=
  { s with
    params := { s.params with form := .interleaved }
    env :=
      { now := { s.env.now with tick := ts.headD .instruction }
        script := ts.tail.map fun k => { s.env.now with tick := k }
        held := true, drawn := 0 } }

/-- The state without what only one form has or what only tells one step from the next: the counters, the form, the
pulses and the environment. -/
def State.withoutScheduler (s : State) : State :=
  { s with
    cntInstr := 0, cntTimer := 0, retire := false, fbValid := false
    params := { s.params with form := .interleaved }, env := initialEnv }

end Sys2Proof.Machine
end

