-- ==== Sys2Proof/Certificates/Slice0/Obligations.lean ====
section
/-! DEFINITION. The statements for the provers. Where a statement says `t = { s with … }`, it says that every part of the
state not named there is as before. `exec` starts with pc = pc0 + 2 (log entry 14), so `s.pc - 2` is pc0. Every word pattern
is the spec's own decision D3; where a statement rests on another decision of 92_eei_decisions.md, its text names it (log
entry 15). -/

open Sys2Proof Sys2Proof.Machine

/-! Encoding. -/

/-- Decoding an encoded instruction gives it back, with every operand at every value (30_encoding.md R92, R98, R101). -/
def Obligations.DecodeInvertsEncode : Prop :=
  ∀ i : Instr, WellFormed i = true →
    decode (encode i) = .instr i ∧ ∀ rest, decodeBytes (encodeBytes i ++ rest) = .word (.instr i) rest

/-- Each recognized word is the encoding of the instruction it selects, ignored fields included (30_encoding.md R98, R99). -/
def Obligations.EncodeInvertsDecode : Prop :=
  ∀ (w : Word) (i : Instr), decode w = .instr i → WellFormed i = true ∧ encode i = w

/-- The formulas of the decoder's fields, and how they overlap (30_encoding.md R92). -/
def Obligations.FieldsOfAWord : Prop :=
  ∀ w : Word,
    (fieldNnn w).toNat = w.toNat &&& 0x0FFF ∧ (fieldN w).val = w.toNat &&& 0x000F ∧
    (fieldX w).val = (w.toNat >>> 8) &&& 0xF ∧ (fieldY w).val = (w.toNat >>> 4) &&& 0xF ∧
    (fieldKk w).toNat = w.toNat &&& 0xFF ∧
    (fieldNnn w).toNat = (fieldX w).val * 256 + (fieldKk w).toNat ∧
    (fieldKk w).toNat = (fieldY w).val * 16 + (fieldN w).val

/-- The first row that holds wins, and a word no row takes is unrecognized; rows 1 and 2 are exact, the others masked, and
the only overlap of the opcode map is row 3 with rows 1 and 2 (30_encoding.md R95). -/
def Obligations.DispatchPriority : Prop :=
  (∀ (w : Word) (k : Fin 35), (opcodeRows[k.val]'k.isLt).selects w = true →
    (∀ j : Fin 35, j < k → (opcodeRows[j.val]'j.isLt).selects w = false) →
    decode w = .instr ((opcodeRows[k.val]'k.isLt).build (fieldsOf w))) ∧
  (∀ w : Word, (∀ k : Fin 35, (opcodeRows[k.val]'k.isLt).selects w = false) → decode w = .unrecognized w) ∧
  (∀ k : Fin 35, (opcodeRows[k.val]'k.isLt).mask = 0xFFFF#16 ↔ k.val < 2) ∧
  (∀ j k : Fin 35, j < k →
    ((∃ w, (opcodeRows[j.val]'j.isLt).selects w = true ∧ (opcodeRows[k.val]'k.isLt).selects w = true) ↔ k.val = 2)) ∧
  decode 0x00E0#16 = .instr .cls ∧ decode 0x00EE#16 = .instr .ret

/-- The unrecognized words are those of the table of 30_encoding.md R100. -/
def Obligations.UnrecognizedWords : Prop :=
  ∀ w : Word, decode w = .unrecognized w ↔
    let class_ := w.toNat / 4096
    let last := w.toNat % 16
    let low := w.toNat % 256
    (class_ = 5 ∧ last ≠ 0) ∨ (class_ = 8 ∧ 8 ≤ last ∧ last ≠ 14) ∨ (class_ = 9 ∧ last ≠ 0) ∨
    (class_ = 14 ∧ low ≠ 0x9E ∧ low ≠ 0xA1) ∨
    (class_ = 15 ∧ low ≠ 0x07 ∧ low ≠ 0x0A ∧ low ≠ 0x15 ∧ low ≠ 0x18 ∧ low ≠ 0x1E ∧ low ≠ 0x29 ∧ low ≠ 0x33 ∧
      low ≠ 0x55 ∧ low ≠ 0x65)

/-- Words of each family written out from 30_encoding.md R98 (95_test_vectors.md 2.2). -/
def Obligations.SampleWords : Prop :=
  decode 0x00E1#16 = .instr (.sys 0x0E1#12) ∧ decode 0x23FF#16 = .instr (.call 0x3FF#12) ∧
  decode 0x8124#16 = .instr (.addReg 1 2) ∧ decode 0x800E#16 = .instr (.shl 0 0) ∧
  decode 0xD12F#16 = .instr (.drw 1 2 15) ∧ decode 0xE09E#16 = .instr (.skp 0) ∧
  decode 0xF065#16 = .instr (.ldVxMem 0) ∧ decode 0x5121#16 = .unrecognized 0x5121#16 ∧
  decode 0xF066#16 = .unrecognized 0xF066#16

/-! Control flow. -/

/-- The machine-routine operation under each policy (40_flow.md R120, the spec's decision D5). -/
def Obligations.SysFollowsPolicy : Prop :=
  (∀ w : Word, w &&& 0xF000#16 = 0x0000#16 → w ≠ 0x00E0#16 → w ≠ 0x00EE#16 →
    decode w = .instr (.sys (fieldNnn w))) ∧
  ∀ (nnn : BitVec 12) (s : State),
    (s.params.sysPolicy = .fault → exec (.sys nnn) s =
      .next { s with run := .halted, haltCause := .sysUnsupported, haltInfo := encode (.sys nnn) }) ∧
    (s.params.sysPolicy = .ignore → exec (.sys nnn) s = .next s) ∧
    (s.params.sysPolicy = .jump → ∃ t, exec (.sys nnn) s = .next t ∧ t.pc.toNat = nnn.toNat ∧ t = { s with pc := t.pc })

/-- The return: the popped address, or the halt on an empty stack (40_flow.md R121, the spec's decision D9). -/
def Obligations.ReturnPops : Prop :=
  decode 0x00EE#16 = .instr .ret ∧
  ∀ s : State,
    (s.sp.val = 0 → exec .ret s =
      .next { s with run := .halted, haltCause := .stackUnderflow, haltInfo := s.pc - 2#16 }) ∧
    (0 < s.sp.val → ∃ t, exec .ret s = .next t ∧ t.sp.val = s.sp.val - 1 ∧
      (∀ j : Fin 16, j.val = s.sp.val - 1 → t.pc = s.stack[j.val]) ∧ t = { s with sp := t.sp, pc := t.pc })

/-- The call: the incremented pc pushed, or the halt with all slots in use (40_flow.md R123, the spec's decision D9). -/
def Obligations.CallPushes : Prop :=
  (∀ w : Word, w &&& 0xF000#16 = 0x2000#16 → decode w = .instr (.call (fieldNnn w))) ∧
  ∀ (nnn : BitVec 12) (s : State),
    (s.sp.val = 16 → exec (.call nnn) s =
      .next { s with run := .halted, haltCause := .stackOverflow, haltInfo := s.pc - 2#16 }) ∧
    (s.sp.val < 16 → ∃ t, exec (.call nnn) s = .next t ∧ t.sp.val = s.sp.val + 1 ∧ t.pc.toNat = nnn.toNat ∧
      (∀ j : Fin 16, t.stack[j.val] = if j.val = s.sp.val then s.pc else s.stack[j.val]) ∧
      t = { s with stack := t.stack, sp := t.sp, pc := t.pc })

/-- A return that finds the stack as the call left it goes to the instruction after the call (40_flow.md R121, R123). -/
def Obligations.ReturnGoesAfterTheCall : Prop :=
  ∀ (nnn : BitVec 12) (s t u : State), s.sp.val < 16 → exec (.call nnn) s = .next t →
    u.stack = t.stack → u.sp = t.sp → ∃ r, exec .ret u = .next r ∧ r.pc = s.pc ∧ r.sp = s.sp

/-- The absolute jump (40_flow.md R122). -/
def Obligations.JumpSetsPc : Prop :=
  (∀ w : Word, w &&& 0xF000#16 = 0x1000#16 → decode w = .instr (.jp (fieldNnn w))) ∧
  ∀ (nnn : BitVec 12) (s : State),
    ∃ t, exec (.jp nnn) s = .next t ∧ t.pc.toNat = nnn.toNat ∧ t = { s with pc := t.pc }

/-- The indexed jump: nnn plus register 0, not masked to 12 bits (40_flow.md R124, the spec's decision D18). -/
def Obligations.IndexedJumpSetsPc : Prop :=
  (∀ w : Word, w &&& 0xF000#16 = 0xB000#16 → decode w = .instr (.jpV0 (fieldNnn w))) ∧
  ∀ (nnn : BitVec 12) (s : State), ∃ t, exec (.jpV0 nnn) s = .next t ∧
    t.pc.toNat = (nnn.toNat + (s.reg 0).toNat) % 65536 ∧ t.pc.toNat ≤ 4350 ∧ t = { s with pc := t.pc }

/-- The skips on an immediate (40_flow.md R125, R126). -/
def Obligations.SkipsOnImmediate : Prop :=
  (∀ w : Word, w &&& 0xF000#16 = 0x3000#16 → decode w = .instr (.seImm (fieldX w) (fieldKk w))) ∧
  (∀ w : Word, w &&& 0xF000#16 = 0x4000#16 → decode w = .instr (.sneImm (fieldX w) (fieldKk w))) ∧
  ∀ (x : Reg) (kk : Byte) (s : State),
    exec (.seImm x kk) s = .next { s with pc := if s.reg x = kk then s.pc + 2#16 else s.pc } ∧
    exec (.sneImm x kk) s = .next { s with pc := if s.reg x = kk then s.pc else s.pc + 2#16 }

/-- The skips on a register (40_flow.md R127, R128, the spec's decision D4). -/
def Obligations.SkipsOnRegister : Prop :=
  (∀ w : Word, w &&& 0xF00F#16 = 0x5000#16 → decode w = .instr (.seReg (fieldX w) (fieldY w))) ∧
  (∀ w : Word, w &&& 0xF00F#16 = 0x9000#16 → decode w = .instr (.sneReg (fieldX w) (fieldY w))) ∧
  ∀ (x y : Reg) (s : State),
    exec (.seReg x y) s = .next { s with pc := if s.reg x = s.reg y then s.pc + 2#16 else s.pc } ∧
    exec (.sneReg x y) s = .next { s with pc := if s.reg x = s.reg y then s.pc else s.pc + 2#16 }

/-! Register load, arithmetic, logic, shift, random. -/

/-- The immediate load (41_alu.md R140). -/
def Obligations.ImmediateLoad : Prop :=
  (∀ w : Word, w &&& 0xF000#16 = 0x6000#16 → decode w = .instr (.ldImm (fieldX w) (fieldKk w))) ∧
  ∀ (x : Reg) (kk : Byte) (s : State),
    ∃ t, exec (.ldImm x kk) s = .next t ∧ t.reg x = kk ∧ (∀ z, z ≠ x → t.reg z = s.reg z) ∧ t = { s with v := t.v }

/-- The immediate add wraps and writes no flag (41_alu.md R141, the spec's decision D28). -/
def Obligations.ImmediateAdd : Prop :=
  (∀ w : Word, w &&& 0xF000#16 = 0x7000#16 → decode w = .instr (.addImm (fieldX w) (fieldKk w))) ∧
  ∀ (x : Reg) (kk : Byte) (s : State),
    ∃ t, exec (.addImm x kk) s = .next t ∧ (t.reg x).toNat = ((s.reg x).toNat + kk.toNat) % 256 ∧
      (∀ z, z ≠ x → t.reg z = s.reg z) ∧ t = { s with v := t.v }

/-- The register copy (41_alu.md R142). -/
def Obligations.RegisterCopy : Prop :=
  (∀ w : Word, w &&& 0xF00F#16 = 0x8000#16 → decode w = .instr (.ldReg (fieldX w) (fieldY w))) ∧
  ∀ (x y : Reg) (s : State), ∃ t, exec (.ldReg x y) s = .next t ∧ t.reg x = s.reg y ∧
    (∀ z, z ≠ x → t.reg z = s.reg z) ∧ t = { s with v := t.v }

/-- Bitwise logic, bit by bit; no flag (41_alu.md R143 to R145, the spec's decision D28). -/
def Obligations.BitwiseLogic : Prop :=
  (∀ w : Word, w &&& 0xF00F#16 = 0x8001#16 → decode w = .instr (.orReg (fieldX w) (fieldY w))) ∧
  (∀ w : Word, w &&& 0xF00F#16 = 0x8002#16 → decode w = .instr (.andReg (fieldX w) (fieldY w))) ∧
  (∀ w : Word, w &&& 0xF00F#16 = 0x8003#16 → decode w = .instr (.xorReg (fieldX w) (fieldY w))) ∧
  ∀ (x y : Reg) (s : State),
    (∃ t, exec (.orReg x y) s = .next t ∧
      (∀ k, (t.reg x).getLsbD k = ((s.reg x).getLsbD k || (s.reg y).getLsbD k)) ∧
      (∀ z, z ≠ x → t.reg z = s.reg z) ∧ t = { s with v := t.v }) ∧
    (∃ t, exec (.andReg x y) s = .next t ∧
      (∀ k, (t.reg x).getLsbD k = ((s.reg x).getLsbD k && (s.reg y).getLsbD k)) ∧
      (∀ z, z ≠ x → t.reg z = s.reg z) ∧ t = { s with v := t.v }) ∧
    (∃ t, exec (.xorReg x y) s = .next t ∧
      (∀ k, (t.reg x).getLsbD k = ((s.reg x).getLsbD k ^^ (s.reg y).getLsbD k)) ∧
      (∀ z, z ≠ x → t.reg z = s.reg z) ∧ t = { s with v := t.v })

/-- Register add with carry; with x = 15 the flag wins (41_alu.md R146; the order of the two
writes is the spec's decision D12). -/
def Obligations.AddWithCarry : Prop :=
  (∀ w : Word, w &&& 0xF00F#16 = 0x8004#16 → decode w = .instr (.addReg (fieldX w) (fieldY w))) ∧
  ∀ (x y : Reg) (s : State), ∃ t, exec (.addReg x y) s = .next t ∧
    (x ≠ 15 → (t.reg x).toNat = ((s.reg x).toNat + (s.reg y).toNat) % 256) ∧
    t.reg 15 = (if 255 < (s.reg x).toNat + (s.reg y).toNat then 1#8 else 0#8) ∧
    (∀ z, z ≠ x → z ≠ 15 → t.reg z = s.reg z) ∧ t = { s with v := t.v }

/-- The two subtracts: difference mod 256, flag 1 exactly when the minuend is strictly greater (41_alu.md R147, R149). -/
def Obligations.SubtractWithNotBorrow : Prop :=
  (∀ w : Word, w &&& 0xF00F#16 = 0x8005#16 → decode w = .instr (.sub (fieldX w) (fieldY w))) ∧
  (∀ w : Word, w &&& 0xF00F#16 = 0x8007#16 → decode w = .instr (.subn (fieldX w) (fieldY w))) ∧
  ∀ (x y : Reg) (s : State),
    (∃ t, exec (.sub x y) s = .next t ∧
      (x ≠ 15 → ((t.reg x).toNat : Int) = (((s.reg x).toNat : Int) - (s.reg y).toNat) % 256) ∧
      t.reg 15 = (if (s.reg y).toNat < (s.reg x).toNat then 1#8 else 0#8) ∧
      (∀ z, z ≠ x → z ≠ 15 → t.reg z = s.reg z) ∧ t = { s with v := t.v }) ∧
    (∃ t, exec (.subn x y) s = .next t ∧
      (x ≠ 15 → ((t.reg x).toNat : Int) = (((s.reg y).toNat : Int) - (s.reg x).toNat) % 256) ∧
      t.reg 15 = (if (s.reg x).toNat < (s.reg y).toNat then 1#8 else 0#8) ∧
      (∀ z, z ≠ x → z ≠ 15 → t.reg z = s.reg z) ∧ t = { s with v := t.v })

/-- The two shifts of Vx in place, the flag being the bit shifted out; y is ignored (41_alu.md R148, R150, the
spec's decision D13). -/
def Obligations.ShiftsInPlace : Prop :=
  (∀ w : Word, w &&& 0xF00F#16 = 0x8006#16 → decode w = .instr (.shr (fieldX w) (fieldY w))) ∧
  (∀ w : Word, w &&& 0xF00F#16 = 0x800E#16 → decode w = .instr (.shl (fieldX w) (fieldY w))) ∧
  ∀ (x y : Reg) (s : State),
    (∃ t, exec (.shr x y) s = .next t ∧
      (x ≠ 15 → (t.reg x).toNat = (s.reg x).toNat / 2) ∧
      (t.reg 15).toNat = (s.reg x).toNat % 2 ∧
      (∀ z, z ≠ x → z ≠ 15 → t.reg z = s.reg z) ∧ t = { s with v := t.v }) ∧
    (∃ t, exec (.shl x y) s = .next t ∧
      (x ≠ 15 → (t.reg x).toNat = (s.reg x).toNat * 2 % 256) ∧
      (t.reg 15).toNat = (s.reg x).toNat / 128 ∧
      (∀ z, z ≠ x → z ≠ 15 → t.reg z = s.reg z) ∧ t = { s with v := t.v })

/-- The random byte AND the immediate, for every byte at the input (41_alu.md R151, the spec's decision D21). -/
def Obligations.RandomAndImmediate : Prop :=
  (∀ w : Word, w &&& 0xF000#16 = 0xC000#16 → decode w = .instr (.rnd (fieldX w) (fieldKk w))) ∧
  ∀ (x : Reg) (kk : Byte) (s : State), ∃ t, exec (.rnd x kk) s = .next t ∧
    (∀ k, (t.reg x).getLsbD k = (s.env.now.rnd.getLsbD k && kk.getLsbD k)) ∧
    (∀ z, z ≠ x → t.reg z = s.reg z) ∧ t = { s with v := t.v }

/-! The index register and memory. -/

/-- The index load (42_index_memory.md R160). -/
def Obligations.IndexLoad : Prop :=
  (∀ w : Word, w &&& 0xF000#16 = 0xA000#16 → decode w = .instr (.ldI (fieldNnn w))) ∧
  ∀ (nnn : BitVec 12) (s : State),
    ∃ t, exec (.ldI nnn) s = .next t ∧ t.i.toNat = nnn.toNat ∧ t = { s with i := t.i }

/-- The index add, wrapping at 65536 with no flag, and the glyph address of the whole byte (42_index_memory.md R161, R162,
the spec's decisions D15, D16). -/
def Obligations.IndexAddAndFont : Prop :=
  (∀ w : Word, w &&& 0xF0FF#16 = 0xF01E#16 → decode w = .instr (.addI (fieldX w))) ∧
  (∀ w : Word, w &&& 0xF0FF#16 = 0xF029#16 → decode w = .instr (.ldFont (fieldX w))) ∧
  ∀ (x : Reg) (s : State),
    (∃ t, exec (.addI x) s = .next t ∧ t.i.toNat = (s.i.toNat + (s.reg x).toNat) % 65536 ∧ t = { s with i := t.i }) ∧
    (∃ t, exec (.ldFont x) s = .next t ∧ t.i.toNat = 5 * (s.reg x).toNat ∧ t = { s with i := t.i })

/-- The decimal digits in three cells, or the halt (42_index_memory.md R163, the spec's decisions D10, D20, D33). -/
def Obligations.DecimalDigits : Prop :=
  (∀ w : Word, w &&& 0xF0FF#16 = 0xF033#16 → decode w = .instr (.ldBcd (fieldX w))) ∧
  ∀ (x : Reg) (s : State),
    (4095 < s.i.toNat + 2 → exec (.ldBcd x) s = .next { s with
      run := .halted, haltCause := .memoryOutOfRange, haltInfo := BitVec.ofNat 16 (max s.i.toNat 4096) }) ∧
    (s.mem.wf = true → s.i.toNat + 2 ≤ 4095 → ∃ t, exec (.ldBcd x) s = .next t ∧
      (t.mem.read s.i.toNat).toNat = (s.reg x).toNat / 100 ∧
      (t.mem.read (s.i.toNat + 1)).toNat = (s.reg x).toNat / 10 % 10 ∧
      (t.mem.read (s.i.toNat + 2)).toNat = (s.reg x).toNat % 10 ∧
      (∀ a, (a < s.i.toNat ∨ s.i.toNat + 2 < a) → t.mem.read a = s.mem.read a) ∧ t = { s with mem := t.mem })

/-- Registers 0 to x stored at ascending addresses from `I`, or the halt (42_index_memory.md R164, the spec's
decisions D10, D14, D33). -/
def Obligations.BlockStore : Prop :=
  (∀ w : Word, w &&& 0xF0FF#16 = 0xF055#16 → decode w = .instr (.ldMemVx (fieldX w))) ∧
  ∀ (x : Reg) (s : State),
    (4095 < s.i.toNat + x.val → exec (.ldMemVx x) s = .next { s with
      run := .halted, haltCause := .memoryOutOfRange, haltInfo := BitVec.ofNat 16 (max s.i.toNat 4096) }) ∧
    (s.mem.wf = true → s.i.toNat + x.val ≤ 4095 → ∃ t, exec (.ldMemVx x) s = .next t ∧
      (∀ k : Reg, k ≤ x → t.mem.read (s.i.toNat + k.val) = s.reg k) ∧
      (∀ a, (a < s.i.toNat ∨ s.i.toNat + x.val < a) → t.mem.read a = s.mem.read a) ∧ t = { s with mem := t.mem })

/-- Registers 0 to x loaded from ascending addresses from `I`, or the halt (42_index_memory.md R165, the spec's
decisions D10, D14, D33). -/
def Obligations.BlockLoad : Prop :=
  (∀ w : Word, w &&& 0xF0FF#16 = 0xF065#16 → decode w = .instr (.ldVxMem (fieldX w))) ∧
  ∀ (x : Reg) (s : State),
    (4095 < s.i.toNat + x.val → exec (.ldVxMem x) s = .next { s with
      run := .halted, haltCause := .memoryOutOfRange, haltInfo := BitVec.ofNat 16 (max s.i.toNat 4096) }) ∧
    (s.i.toNat + x.val ≤ 4095 → ∃ t, exec (.ldVxMem x) s = .next t ∧
      (∀ k : Reg, k ≤ x → t.reg k = s.mem.read (s.i.toNat + k.val)) ∧
      (∀ z : Reg, x < z → t.reg z = s.reg z) ∧ t = { s with v := t.v })

/-- Every transfer checks its whole range first and moves nothing when it is bad; a good one does not halt, and none
changes `I` (42_index_memory.md R166, the spec's decisions D10, D14, D33). -/
def Obligations.TransfersCheckFirst : Prop :=
  ∀ (i : Instr) (s : State), 0 < transferBytes i →
    (4095 < s.ea (transferBytes i - 1) → exec i s = .next { s with
      run := .halted, haltCause := .memoryOutOfRange, haltInfo := BitVec.ofNat 16 (max s.i.toNat 4096) }) ∧
    (s.ea (transferBytes i - 1) ≤ 4095 → ∃ t, exec i s = .next t ∧ t.run = s.run ∧ t.i = s.i) ∧
    ∀ k, s.ea k = s.i.toNat + k

/-- What a block store leaves in two neighbouring cells is the word a later fetch from them reads (20_memory.md R64, R74). -/
def Obligations.StoreSeenByFetch : Prop :=
  ∀ (x k : Reg) (s t u : State), s.mem.wf = true → s.i.toNat + x.val ≤ 4095 → exec (.ldMemVx x) s = .next t →
    k < x → u.mem = t.mem → u.pc.toNat = s.i.toNat + k.val →
    ∀ k' : Reg, k'.val = k.val + 1 → u.fetchedWord.toNat = (s.reg k).toNat * 256 + (s.reg k').toNat

/-! Display. -/

/-- Clear screen (43_display.md R170). -/
def Obligations.ClearScreen : Prop :=
  decode 0x00E0#16 = .instr .cls ∧
  ∀ s : State, ∃ t, exec .cls s = .next t ∧ (∀ r c, t.fb.pixel r c = false) ∧ t = { s with fb := t.fb }

/-- The sprite draw: exactly the pixels under the sprite's 1 bits turn, the flag says whether one of them was set; or the
halt (43_display.md R171, R173, the spec's decisions D19 for the bit order, D30 for n = 0). -/
def Obligations.SpriteDraw : Prop :=
  (∀ w : Word, w &&& 0xF000#16 = 0xD000#16 → decode w = .instr (.drw (fieldX w) (fieldY w) (fieldN w))) ∧
  ∀ (x y : Reg) (n : Fin 16) (s : State),
    (0 < n.val → 4095 < s.i.toNat + n.val - 1 → exec (.drw x y n) s = .next { s with
      run := .halted, haltCause := .memoryOutOfRange, haltInfo := BitVec.ofNat 16 (max s.i.toNat 4096) }) ∧
    (n.val = 0 ∨ s.i.toNat + n.val - 1 ≤ 4095 → ∃ t, exec (.drw x y n) s = .next t ∧
      (∀ r c, s.spriteCovers (s.reg x) (s.reg y) n.val r c → t.fb.pixel r c = !s.fb.pixel r c) ∧
      (∀ r c, ¬s.spriteCovers (s.reg x) (s.reg y) n.val r c → t.fb.pixel r c = s.fb.pixel r c) ∧
      ((∃ r c, s.fb.pixel r c = true ∧ t.fb.pixel r c = false) → t.reg 15 = 1#8) ∧
      ((∀ r c, s.fb.pixel r c = true → t.fb.pixel r c = true) → t.reg 15 = 0#8) ∧
      (∀ z, z ≠ 15 → t.reg z = s.reg z) ∧ t = { s with v := t.v, fb := t.fb })

/-- The double draw: the second draw restores the framebuffer, and its flag is 1 exactly when the first set a pixel
(43_display.md R172). -/
def Obligations.DoubleDrawRestores : Prop :=
  ∀ (x y : Reg) (n : Fin 16) (s t : State) (pc : Word), x ≠ 15 → y ≠ 15 →
    (n.val = 0 ∨ s.i.toNat + n.val - 1 ≤ 4095) → exec (.drw x y n) s = .next t →
    ∃ u, exec (.drw x y n) { t with pc := pc } = .next u ∧ u.fb = s.fb ∧
      ((∃ r c, s.fb.pixel r c = false ∧ t.fb.pixel r c = true) → u.reg 15 = 1#8) ∧
      ((∀ r c, t.fb.pixel r c = true → s.fb.pixel r c = true) → u.reg 15 = 0#8)

/-! Keys and timers. -/

/-- The key skips: the whole byte is tested, so a code above 15 is never pressed (44_keys_timers.md R180, R181,
the spec's decision D17). -/
def Obligations.KeySkips : Prop :=
  (∀ w : Word, w &&& 0xF0FF#16 = 0xE09E#16 → decode w = .instr (.skp (fieldX w))) ∧
  (∀ w : Word, w &&& 0xF0FF#16 = 0xE0A1#16 → decode w = .instr (.sknp (fieldX w))) ∧
  ∀ (x : Reg) (s : State),
    (∀ k : Fin 16, (s.reg x).toNat = k.val → s.env.now.keys.getLsbD k.val = true →
      exec (.skp x) s = .next { s with pc := s.pc + 2#16 } ∧ exec (.sknp x) s = .next s) ∧
    (∀ k : Fin 16, (s.reg x).toNat = k.val → s.env.now.keys.getLsbD k.val = false →
      exec (.skp x) s = .next s ∧ exec (.sknp x) s = .next { s with pc := s.pc + 2#16 }) ∧
    (15 < (s.reg x).toNat →
      exec (.skp x) s = .next s ∧ exec (.sknp x) s = .next { s with pc := s.pc + 2#16 })

/-- The blocking key wait: with no key the fetch address again, else the lowest key (44_keys_timers.md R183, the spec's
decision D26 for a key already held). -/
def Obligations.KeyWait : Prop :=
  (∀ w : Word, w &&& 0xF0FF#16 = 0xF00A#16 → decode w = .instr (.ldVxKey (fieldX w))) ∧
  ∀ (x : Reg) (s : State),
    ((∀ k : Fin 16, s.env.now.keys.getLsbD k.val = false) →
      exec (.ldVxKey x) s = .next { s with pc := s.pc - 2#16 }) ∧
    (∀ k : Fin 16, s.env.now.keys.getLsbD k.val = true → (∀ j : Fin 16, j < k → s.env.now.keys.getLsbD j.val = false) →
      ∃ t, exec (.ldVxKey x) s = .next t ∧ (t.reg x).toNat = k.val ∧
        (∀ z, z ≠ x → t.reg z = s.reg z) ∧ t = { s with v := t.v })

/-- Reading the delay timer and writing either timer (44_keys_timers.md R182, R184, R185). -/
def Obligations.TimerAccess : Prop :=
  (∀ w : Word, w &&& 0xF0FF#16 = 0xF007#16 → decode w = .instr (.ldVxDt (fieldX w))) ∧
  (∀ w : Word, w &&& 0xF0FF#16 = 0xF015#16 → decode w = .instr (.ldDtVx (fieldX w))) ∧
  (∀ w : Word, w &&& 0xF0FF#16 = 0xF018#16 → decode w = .instr (.ldStVx (fieldX w))) ∧
  ∀ (x : Reg) (s : State),
    (∃ t, exec (.ldVxDt x) s = .next t ∧ t.reg x = s.dt ∧ (∀ z, z ≠ x → t.reg z = s.reg z) ∧ t = { s with v := t.v }) ∧
    exec (.ldDtVx x) s = .next { s with dt := s.reg x } ∧
    exec (.ldStVx x) s = .next { s with st := s.reg x }

/-! Frames: what each instruction leaves unchanged (10_state.md R46). -/

/-- An instruction changes no general register but its destination and, where R22 says so, `VF`. -/
def Obligations.RegisterFrame : Prop :=
  ∀ (i : Instr) (s t : State), exec i s = .next t → ∀ z, writesReg i z = false → t.reg z = s.reg z

/-- An instruction changes no byte of memory but those it stores, from `EA(0)` on (20_memory.md R61). -/
def Obligations.MemoryFrame : Prop :=
  ∀ (i : Instr) (s t : State), exec i s = .next t →
    ∀ a, ¬(s.ea 0 ≤ a ∧ a < s.ea 0 + storedBytes i) → t.mem.read a = s.mem.read a

/-- The only writers of `I`, the stack, its pointer, the timers, the framebuffer and the pc. -/
def Obligations.SpecialStateFrame : Prop :=
  ∀ (i : Instr) (s t : State), exec i s = .next t →
    (t.i = s.i ∨ (∃ nnn, i = .ldI nnn) ∨ (∃ x, i = .addI x) ∨ (∃ x, i = .ldFont x)) ∧
    (t.stack = s.stack ∨ ∃ nnn, i = .call nnn) ∧
    (t.sp = s.sp ∨ i = .ret ∨ ∃ nnn, i = .call nnn) ∧
    (t.dt = s.dt ∨ ∃ x, i = .ldDtVx x) ∧
    (t.st = s.st ∨ ∃ x, i = .ldStVx x) ∧
    (t.fb = s.fb ∨ i = .cls ∨ ∃ x y n, i = .drw x y n) ∧
    (t.pc = s.pc ∨ i = .ret ∨ (∃ nnn, i = .sys nnn ∨ i = .jp nnn ∨ i = .call nnn ∨ i = .jpV0 nnn) ∨
      (∃ x kk, i = .seImm x kk ∨ i = .sneImm x kk) ∨ (∃ x y, i = .seReg x y ∨ i = .sneReg x y) ∨
      (∃ x, i = .skp x ∨ i = .sknp x ∨ i = .ldVxKey x))

/-- No instruction touches the ROM count, the scheduler's counters, the outputs, the parameters or the inputs, and none
changes the run state but to halt with a cause of its own. -/
def Obligations.SchedulerStateFrame : Prop :=
  ∀ (i : Instr) (s t : State), exec i s = .next t →
    t.romCnt = s.romCnt ∧ t.cntInstr = s.cntInstr ∧ t.cntTimer = s.cntTimer ∧ t.fbValid = s.fbValid ∧
    t.fbData = s.fbData ∧ t.retire = s.retire ∧ t.retireWord = s.retireWord ∧ t.params = s.params ∧ t.env = s.env ∧
    ((t.run = s.run ∧ t.haltCause = s.haltCause ∧ t.haltInfo = s.haltInfo) ∨
      (t = { s with run := .halted, haltCause := t.haltCause, haltInfo := t.haltInfo } ∧
        (t.haltCause = .sysUnsupported ∨ t.haltCause = .stackOverflow ∨ t.haltCause = .stackUnderflow ∨
          t.haltCause = .memoryOutOfRange)))

/-- Only the key instructions read `Keys`, and only `Cxkk` reads `Rnd` (10_state.md R40, R41). -/
def Obligations.InputsReadOnlyByTheirInstructions : Prop :=
  ∀ (i : Instr) (s t : State), exec i s = .next t →
    ((∀ x, i ≠ .skp x ∧ i ≠ .sknp x ∧ i ≠ .ldVxKey x) → ∀ keys, exec i (s.withKeys keys) = .next (t.withKeys keys)) ∧
    ((∀ x kk, i ≠ .rnd x kk) → ∀ rnd, exec i (s.withRnd rnd) = .next (t.withRnd rnd))

/-! The instruction step. -/

/-- The fetch: big-endian, from any pc up to 4094, else the halt with pc not incremented (30_encoding.md R91, the spec's
decisions D2, D10). -/
def Obligations.FetchReadsWordOrHalts : Prop :=
  ∀ s : State,
    s.fetchedWord.toNat = (s.mem.read s.pc.toNat).toNat * 256 + (s.mem.read (s.pc.toNat + 1)).toNat ∧
    (s.pc.toNat ≤ 4094 → s.instructionStep = s.runWord s.fetchedWord) ∧
    (s.pc.toNat = 4095 → s.instructionStep =
      .next { s with run := .halted, haltCause := .memoryOutOfRange, haltInfo := 4096#16 }) ∧
    (4096 ≤ s.pc.toNat → s.instructionStep =
      .next { s with run := .halted, haltCause := .memoryOutOfRange, haltInfo := s.pc })

/-- A word that satisfies no pair halts the core with that word, pc being incremented already (30_encoding.md R97). -/
def Obligations.UnrecognizedWordHalts : Prop :=
  ∀ s : State, s.pc.toNat ≤ 4094 → (∀ r ∈ opcodeRows, s.fetchedWord &&& r.mask ≠ r.pat) →
    s.instructionStep = .next { s with
      run := .halted, haltCause := .unrecognizedInstruction, haltInfo := s.fetchedWord, pc := s.pc + 2#16 }

/-- A step of the running core in which an instruction step is due runs the decoded instruction on the state with pc
incremented, and pulses retire unless it halted (30_encoding.md R90); in the clocked form the timer's half follows
(60_exceptions.md R214, the spec's decision D22), and `CNT_INSTR` is reloaded even if the instruction halted the core, which is
the model's reading (log entry 11). -/
def Obligations.StepRunsDecodedInstruction : Prop :=
  ∀ (s t : State) (i : Instr), s.env.now.rst = false → s.run = .running → s.env.now.stop = false →
    s.pc.toNat ≤ 4094 → decode s.fetchedWord = .instr i →
    exec i { s with retire := false, fbValid := false, pc := s.pc + 2#16 } = .next t →
    (s.params.form = .interleaved → s.env.now.tick = .instruction →
      step s = .next (t.retireUnlessHalted s.fetchedWord).nextSample) ∧
    (s.params.form = .clocked → s.cntInstr = 0 →
      step s = .next ({ t.retireUnlessHalted s.fetchedWord with cntInstr := s.params.pInstr - 1 }).timerEdge.nextSample) ∧
    (t.run ≠ .halted → (t.retireUnlessHalted s.fetchedWord).retire = true ∧
      (t.retireUnlessHalted s.fetchedWord).retireWord = s.fetchedWord) ∧
    (t.run = .halted → (t.retireUnlessHalted s.fetchedWord).retire = false)

/-- Faults are precise: only the halt registers, and pc as the cycle left it (60_exceptions.md R209, the spec's decision D23). -/
def Obligations.FaultsArePrecise : Prop :=
  ∀ s t : State, s.run = .running → s.instructionStep = .next t → t.run = .halted →
    t = { s with
      run := .halted, haltCause := t.haltCause, haltInfo := t.haltInfo
      pc := if s.pc.toNat ≤ 4094 then s.pc + 2#16 else s.pc }

/-- The codes the output ports show: the eight halt causes (60_exceptions.md R200, the spec's decision D23) and the three run
states (10_state.md R42, the spec's decision D1). -/
def Obligations.OutputCodes : Prop :=
  HaltCause.notHalted.code.toNat = 0 ∧ HaltCause.stop.code.toNat = 1 ∧
  HaltCause.unrecognizedInstruction.code.toNat = 2 ∧ HaltCause.stackOverflow.code.toNat = 3 ∧
  HaltCause.stackUnderflow.code.toNat = 4 ∧ HaltCause.memoryOutOfRange.code.toNat = 5 ∧
  HaltCause.sysUnsupported.code.toNat = 6 ∧ HaltCause.romTooLarge.code.toNat = 7 ∧
  RunState.booting.code.toNat = 0 ∧ RunState.running.code.toNat = 1 ∧ RunState.halted.code.toNat = 2

/-! The machine. -/

/-- Every step answers a next state: no fault of Lean's, no refusal. That each fault of the spec is a next state is the model's
reading (log entry 10), that a step in `Halted` is one its choice (log entry 6). -/
def Obligations.StepAlwaysAnswers : Prop := ∀ s : State, ∃ t, step s = .next t

/-- The reset state meets the invariant; the values of its outputs and counters are the model's choices (log entries 7, 8). -/
def Obligations.InvAtReset : Prop := State.reset.Inv

/-- Every step keeps the invariant. What its clause for `Booting` says of the counters, of the outputs and of the font's cells
before `boot_go` are the model's choices (log entries 8, 7, 9); that the pulses are low in `Halted` is log entry 7. -/
def Obligations.InvKeptByStep : Prop := ∀ s t : State, s.Inv → step s = .next t → t.Inv

/-- No step changes a parameter of the run (00_scope.md R11). -/
def Obligations.ParametersFixed : Prop := ∀ s t : State, step s = .next t → t.params = s.params

/-- The reset input clears everything, and is the only way into `Booting` and out of `Halted`
(70_reset_and_hazards.md R240, the spec's decisions D6, D31). -/
def Obligations.ResetClearsAndIsTheOnlyWay : Prop :=
  (∀ s : State, s.env.now.rst = true → ∃ t, step s = .next t ∧
    (∀ x, t.reg x = 0#8) ∧ t.i = 0#16 ∧ t.pc = 0#16 ∧ (∀ j : Fin 16, t.stack[j.val] = 0#16) ∧ t.sp.val = 0 ∧
    t.dt = 0#8 ∧ t.st = 0#8 ∧ (∀ r c, t.fb.pixel r c = false) ∧ (∀ a, t.mem.read a = 0#8) ∧
    t.run = .booting ∧ t.haltCause = .notHalted ∧ t.haltInfo = 0#16 ∧ t.romCnt.val = 0) ∧
  (∀ s t : State, s.env.now.rst = false → step s = .next t →
    (t.run = .booting → s.run = .booting) ∧ (s.run = .halted → t.run = .halted))

/-- `Halted` is terminal: nothing changes but the environment, whatever the other inputs are, and a run on which the core is
halted at some step, by a fault or by the stop request, is not a safe one (60_exceptions.md R207). The pulses are low since the
step that halted (the invariant); that a step in `Halted` is a next state at all is the model's choice (log entry 6). -/
def Obligations.HaltedIsTerminal : Prop :=
  (∀ s t : State, s.run = .halted → s.env.now.rst = false → s.retire = false → s.fbValid = false → step s = .next t →
    t = { s with env := t.env }) ∧
  (∀ (s t : State) (j k : Nat), j ≤ k → runSteps j s = .next t → t.run = .halted → ¬RunsSafely k s)

/-- The stop request wins over every tick and cannot be masked; in `Booting` it halts too (60_exceptions.md R205, R208, the
spec's decision D27), and that it comes there before `rom_valid` and `boot_go` of the same cycle is the model's reading (log
entry 12). -/
def Obligations.StopHalts : Prop :=
  ∀ s : State, s.env.now.rst = false → s.env.now.stop = true → s.run = .running ∨ s.run = .booting →
    ∃ t, step s = .next t ∧ t = { s with
      run := .halted, haltCause := .stop, haltInfo := 0#16, retire := false, fbValid := false, env := t.env }

/-- A timer step counts both timers down and publishes the framebuffer, in either form of the scheduler: when the schedule
gives it; on an edge of the clocked form with `CNT_TIMER` at 0 and no instruction step due; and on one with both due, where it
acts on the state the instruction step left and not at all if that step halted the core (60_exceptions.md R212, R214, R215,
the spec's decisions D22, D32; the port's bits R218 and 10_state.md R42, D36). The lowered pulses are log entry 7, the reload of
`CNT_INSTR` by a halting step log entry 11. -/
def Obligations.TimerStepCountsAndPublishes : Prop :=
  ∀ s : State, s.env.now.rst = false → s.run = .running → s.env.now.stop = false →
    (s.params.form = .interleaved → s.env.now.tick = .timer → ∃ t, step s = .next t ∧ t.CountedFrom s ∧
      t = { s with dt := t.dt, st := t.st, fbValid := true, fbData := s.fb, retire := false, env := t.env }) ∧
    (s.params.form = .clocked → s.cntTimer = 0 → s.cntInstr ≠ 0 → ∃ t, step s = .next t ∧ t.CountedFrom s ∧
      t = { s with
        dt := t.dt, st := t.st, fbValid := true, fbData := s.fb, retire := false, env := t.env
        cntInstr := s.cntInstr - 1, cntTimer := s.params.fClk / 60 - 1 }) ∧
    (s.params.form = .clocked → s.cntTimer = 0 → s.cntInstr = 0 →
      ∀ u : State, { s with retire := false, fbValid := false }.instructionStep = .next u →
        (u.run = .running → ∃ t, step s = .next t ∧ t.CountedFrom u ∧
          t = { u with
            dt := t.dt, st := t.st, fbValid := true, fbData := u.fb, env := t.env
            cntInstr := s.params.fClk / 500 - 1, cntTimer := s.params.fClk / 60 - 1 }) ∧
        (u.run = .halted → ∃ t, step s = .next t ∧
          t = { u with cntInstr := s.params.fClk / 500 - 1, env := t.env }))

/-- The published snapshot is a copy: without a publish it stays, and a publish shows the framebuffer (10_state.md R44, the
spec's decision D36). -/
def Obligations.SnapshotIsACopy : Prop :=
  ∀ s t : State, s.env.now.rst = false → step s = .next t →
    (t.fbValid = false → t.fbData = s.fbData) ∧ (t.fbValid = true → t.fbData = t.fb)

/-! Boot. -/

/-- The ROM load port: one byte a step at `M[512 + ROM_CNT]`; outside `Booting` the port is ignored (10_state.md R43, the
spec's decision D1). That no other byte changes in that cycle, the font being copied only in the cycle of `boot_go`, is the
model's choice (log entry 9), and so are the pulses lowered at the start of the step (log entry 7). -/
def Obligations.RomLoadPort : Prop :=
  (∀ s : State, s.mem.wf = true → s.env.now.rst = false → s.run = .booting → s.env.now.stop = false →
    s.env.now.romValid = true → s.env.now.bootGo = false → s.romCnt.val < 3584 →
    ∃ t, step s = .next t ∧ t.romCnt.val = s.romCnt.val + 1 ∧
      (∀ a, t.mem.read a = if a = 512 + s.romCnt.val then s.env.now.romByte else s.mem.read a) ∧
      t = { s with mem := t.mem, romCnt := t.romCnt, retire := false, fbValid := false, env := t.env }) ∧
  (∀ (s t : State) (valid go : Bool) (byte : Byte), s.run ≠ .booting → step s = .next t →
    ∃ t', step (s.withRomPort valid byte go) = .next t' ∧ t = { t' with env := t.env })

/-- A 3585th ROM byte is not stored and halts the core, `Running` never being entered (70_reset_and_hazards.md R242, the
spec's decision D11), `boot_go` in the same cycle or not: that the byte comes before `boot_go` there is the model's reading (log
entry 12). -/
def Obligations.OversizedRomRejected : Prop :=
  ∀ s : State, s.env.now.rst = false → s.run = .booting → s.env.now.stop = false → s.env.now.romValid = true →
    s.romCnt.val = 3584 →
    ∃ t, step s = .next t ∧ t = { s with
      run := .halted, haltCause := .romTooLarge, haltInfo := 3584#16, retire := false, fbValid := false, env := t.env }

/-- Booting any ROM image of at most 3584 bytes through the port, under any parameters, reaches the state "on entering
Running" (70_reset_and_hazards.md R241). The zeros and the font's place are those of the spec's decisions D6, D7, the counters
those of D22. -/
def Obligations.BootLoadsEveryRom : Prop :=
  ∀ (p : Params) (rom : List Byte), rom.length ≤ 3584 →
    ∃ t, runSteps (rom.length + 1) (State.powerOn p (bootEnv rom)) = .next t ∧
      t.run = .running ∧ t.pc.toNat = 512 ∧ t.haltCause = .notHalted ∧ t.haltInfo = 0#16 ∧
      (∀ x, t.reg x = 0#8) ∧ t.i = 0#16 ∧ t.sp.val = 0 ∧ (∀ j : Fin 16, t.stack[j.val] = 0#16) ∧
      t.dt = 0#8 ∧ t.st = 0#8 ∧ (∀ r c, t.fb.pixel r c = false) ∧ t.romCnt.val = rom.length ∧
      (∀ a : Fin 80, t.mem.read a.val = p.font[a.val]) ∧
      (∀ (k : Nat) (h : k < rom.length), t.mem.read (512 + k) = rom[k]) ∧
      (∀ a, 80 ≤ a → (a < 512 ∨ 512 + rom.length ≤ a) → t.mem.read a = 0#8) ∧
      (p.form = .clocked → t.cntInstr = p.fClk / 500 - 1 ∧ t.cntTimer = p.fClk / 60 - 1)

/-! The clocked form. -/

/-- An edge moves each counter as 60_exceptions.md R214 says, the timer's only while the core still runs. -/
def Obligations.ClockedCounters : Prop :=
  ∀ s t : State, s.env.now.rst = false → s.run = .running → s.env.now.stop = false → s.params.form = .clocked →
    step s = .next t →
    t.cntInstr = (if s.cntInstr = 0 then s.params.fClk / 500 - 1 else s.cntInstr - 1) ∧
    (t.run = .running → t.cntTimer = (if s.cntTimer = 0 then s.params.fClk / 60 - 1 else s.cntTimer - 1)) ∧
    (t.run = .halted → s.cntInstr = 0 ∧ t.cntTimer = s.cntTimer)

/-- Counting edges from the first in `Running`, instruction steps are due at the multiples of `P_INSTR` and timer steps at
those of `P_TIMER`: the phase of each counter after n edges is kept by the next edge (60_exceptions.md R214). -/
def Obligations.ClockedPhase : Prop :=
  ∀ (s t : State) (n : Nat), s.params.legal = true → s.env.now.rst = false → s.run = .running →
    s.env.now.stop = false → s.params.form = .clocked →
    s.cntInstr = s.params.pInstr - 1 - n % s.params.pInstr → s.cntTimer = s.params.pTimer - 1 - n % s.params.pTimer →
    step s = .next t → t.run = .running →
    t.cntInstr = t.params.pInstr - 1 - (n + 1) % t.params.pInstr ∧
    t.cntTimer = t.params.pTimer - 1 - (n + 1) % t.params.pTimer ∧
    (s.cntInstr = 0 ↔ (n + 1) % s.params.pInstr = 0) ∧ (s.cntTimer = 0 ↔ (n + 1) % s.params.pTimer = 0)

/-- An edge of the clocked form does what the interleaved form does in the steps that are due, the instruction step first
(60_exceptions.md R213, R214, R215, the spec's decision D22). Where the instruction step halts the core and a timer step is due
too, that the interleaved run's second step, in `Halted`, answers a next state is the model's choice (log entry 6). -/
def Obligations.ClockedEdgeIsInterleavedSteps : Prop :=
  ∀ s t : State, s.env.now.rst = false → s.run = .running → s.env.now.stop = false → s.params.form = .clocked →
    step s = .next t →
    ∃ u, runSteps s.dueTicks.length (s.asInterleaved s.dueTicks) = .next u ∧
      u.withoutScheduler = t.withoutScheduler
end

