-- ==== Sys2Proof/Laws/Decode.lean ====
section
/-! SUPPORT. The fields and the masks of an encoded word, format by format (30_encoding.md R92, R96, R101), and the class
digit as what separates the rows of the opcode map. -/

namespace Sys2Proof

variable (c n : BitVec 4) (nnn : BitVec 12) (x y : Reg) (kk : Byte)

@[simp] theorem digit_toFin : (digit x).toFin = x := rfl

/-! Fields of the formats. -/

theorem fieldNnn_formatNnn : fieldNnn (formatNnn c nnn) = nnn := BitVec.extractLsb'_append_eq_right

theorem fieldX_formatXkk : fieldX (formatXkk c x kk) = x := by
  have h : (formatXkk c x kk).extractLsb' 8 4 = digit x := by
    apply BitVec.eq_of_getLsbD_eq
    intro i hi
    simp only [formatXkk, BitVec.getLsbD_extractLsb', BitVec.getLsbD_append]
    simp [hi, show ¬(8 + i < 8) by omega, show 8 + i - 8 = i by omega]
  rw [fieldX, h]
  rfl

theorem fieldKk_formatXkk : fieldKk (formatXkk c x kk) = kk := BitVec.extractLsb'_append_eq_right

theorem fieldX_formatXyn : fieldX (formatXyn c x y n) = x := fieldX_formatXkk c x (digit y ++ n)

theorem fieldY_formatXyn : fieldY (formatXyn c x y n) = y := by
  have h : (formatXyn c x y n).extractLsb' 4 4 = digit y := by
    apply BitVec.eq_of_getLsbD_eq
    intro i hi
    simp only [formatXyn, BitVec.getLsbD_extractLsb', BitVec.getLsbD_append]
    simp [hi, show 4 + i < 8 by omega, show ¬(4 + i < 4) by omega, show 4 + i - 4 = i by omega]
  rw [fieldY, h]
  rfl

theorem fieldN_formatXyn : fieldN (formatXyn c x y n) = n.toFin := by
  have h : (formatXyn c x y n).extractLsb' 0 4 = n := by
    apply BitVec.eq_of_getLsbD_eq
    intro i hi
    simp only [formatXyn, BitVec.getLsbD_extractLsb', BitVec.getLsbD_append]
    simp [hi, show i < 8 by omega]
  rw [fieldN, h]

/-! The masks of R96 on the formats. -/

theorem formatNnn_and_F000 : formatNnn c nnn &&& 0xF000#16 = formatNnn c 0#12 := by
  rw [formatNnn, show (0xF000#16 : BitVec (4 + 12)) = 0xF#4 ++ 0x000#12 from rfl, BitVec.and_append,
    show c &&& 0xF#4 = c from BitVec.and_allOnes, BitVec.and_zero]
  rfl

theorem formatXkk_and_F000 : formatXkk c x kk &&& 0xF000#16 = formatXkk c 0 0#8 := by
  rw [formatXkk, show (0xF000#16 : BitVec (4 + 4 + 8)) = (0xF#4 ++ 0x0#4) ++ 0x00#8 from rfl, BitVec.and_append,
    BitVec.and_append, show c &&& 0xF#4 = c from BitVec.and_allOnes, BitVec.and_zero, BitVec.and_zero]
  rfl

theorem formatXkk_and_F0FF : formatXkk c x kk &&& 0xF0FF#16 = formatXkk c 0 kk := by
  rw [formatXkk, show (0xF0FF#16 : BitVec (4 + 4 + 8)) = (0xF#4 ++ 0x0#4) ++ 0xFF#8 from rfl, BitVec.and_append,
    BitVec.and_append, show c &&& 0xF#4 = c from BitVec.and_allOnes,
    show kk &&& 0xFF#8 = kk from BitVec.and_allOnes, BitVec.and_zero]
  rfl

theorem formatXyn_and_F000 : formatXyn c x y n &&& 0xF000#16 = formatXkk c 0 0#8 :=
  formatXkk_and_F000 c x (digit y ++ n)

theorem formatXyn_and_F00F : formatXyn c x y n &&& 0xF00F#16 = formatXyn c 0 0 n := by
  rw [formatXyn, show (0xF00F#16 : BitVec (4 + 4 + (4 + 4))) = (0xF#4 ++ 0x0#4) ++ (0x0#4 ++ 0xF#4) from rfl,
    BitVec.and_append, BitVec.and_append, BitVec.and_append, show c &&& 0xF#4 = c from BitVec.and_allOnes,
    show n &&& 0xF#4 = n from BitVec.and_allOnes, BitVec.and_zero, BitVec.and_zero]
  rfl

/-! The class digit. -/

/-- `W[15:12]`, which the dispatcher reads through its masks (30_encoding.md R92). -/
def classOf (w : Word) : BitVec 4 := w.extractLsb' 12 4

theorem classOf_formatNnn : classOf (formatNnn c nnn) = c := BitVec.extractLsb'_append_eq_left

theorem classOf_formatXkk : classOf (formatXkk c x kk) = c := by
  apply BitVec.eq_of_getLsbD_eq
  intro i hi
  simp only [classOf, formatXkk, BitVec.getLsbD_extractLsb', BitVec.getLsbD_append]
  simp [hi, show ¬(12 + i < 8) by omega, show ¬(12 + i - 8 < 4) by omega, show 12 + i - 8 - 4 = i by omega]

theorem classOf_formatXyn : classOf (formatXyn c x y n) = c := classOf_formatXkk c x (digit y ++ n)

/-- Every mask of the opcode map covers the class digit (30_encoding.md R96). -/
theorem mask_covers_class : ∀ r ∈ opcodeRows, classOf r.mask = 0xF#4 := by
  simp [opcodeRows, rowsFlow, rowsAlu, rowsRest, classOf]

/-- A row selects only words of its own class. -/
theorem Row.class_of_selects {r : Row} {w : Word} (hr : r ∈ opcodeRows) (h : r.selects w = true) :
    classOf r.pat = classOf w := by
  have hp : r.pat = w &&& r.mask := (by simpa [Row.selects] using h : w &&& r.mask = r.pat).symm
  have hand : classOf (w &&& r.mask) = classOf w &&& classOf r.mask := by
    simp [classOf, BitVec.extractLsb'_and]
  rw [hp, hand, mask_covers_class r hr]
  exact BitVec.and_allOnes

/-- The rows that cannot select a word may be left out. -/
theorem dispatch_filter (w : Word) (p : Row → Bool) (rows : List Row)
    (h : ∀ r ∈ rows, p r = false → r.selects w = false) : dispatch w rows = dispatch w (rows.filter p) := by
  induction rows with
  | nil => rfl
  | cons r rs ih =>
    have ih' := ih fun r' hr' => h r' (List.mem_cons_of_mem r hr')
    cases hp : p r with
    | true => rw [List.filter_cons_of_pos hp, dispatch, dispatch, ih']
    | false => rw [List.filter_cons_of_neg (by simp [hp]), dispatch, h r List.mem_cons_self hp, ih']; rfl

/-- A word is dispatched among the rows of its class alone. -/
theorem decode_eq_class (w : Word) :
    decode w = dispatch w (opcodeRows.filter fun r => classOf r.pat == classOf w) := by
  refine dispatch_filter w _ opcodeRows fun r hr hp => ?_
  cases hs : r.selects w with
  | false => rfl
  | true => exact absurd (Row.class_of_selects hr hs) (by simpa using hp)

end Sys2Proof
end

