-- ==== Sys2Proof/Laws/State.lean ====
section
/-! SUPPORT. One lemma per field per update of the state, each true by rfl, so that no proof unfolds a record update. -/

namespace Sys2Proof.Machine

variable (s : State)

/-! setReg -/

@[simp] theorem State.setReg_v (x : Reg) (b : Byte) : (s.setReg x b).v = s.v.set x.val b := rfl
@[simp] theorem State.setReg_i (x : Reg) (b : Byte) : (s.setReg x b).i = s.i := rfl
@[simp] theorem State.setReg_pc (x : Reg) (b : Byte) : (s.setReg x b).pc = s.pc := rfl
@[simp] theorem State.setReg_stack (x : Reg) (b : Byte) : (s.setReg x b).stack = s.stack := rfl
@[simp] theorem State.setReg_sp (x : Reg) (b : Byte) : (s.setReg x b).sp = s.sp := rfl
@[simp] theorem State.setReg_dt (x : Reg) (b : Byte) : (s.setReg x b).dt = s.dt := rfl
@[simp] theorem State.setReg_st (x : Reg) (b : Byte) : (s.setReg x b).st = s.st := rfl
@[simp] theorem State.setReg_fb (x : Reg) (b : Byte) : (s.setReg x b).fb = s.fb := rfl
@[simp] theorem State.setReg_mem (x : Reg) (b : Byte) : (s.setReg x b).mem = s.mem := rfl
@[simp] theorem State.setReg_run (x : Reg) (b : Byte) : (s.setReg x b).run = s.run := rfl
@[simp] theorem State.setReg_haltCause (x : Reg) (b : Byte) : (s.setReg x b).haltCause = s.haltCause := rfl
@[simp] theorem State.setReg_haltInfo (x : Reg) (b : Byte) : (s.setReg x b).haltInfo = s.haltInfo := rfl
@[simp] theorem State.setReg_romCnt (x : Reg) (b : Byte) : (s.setReg x b).romCnt = s.romCnt := rfl
@[simp] theorem State.setReg_cntInstr (x : Reg) (b : Byte) : (s.setReg x b).cntInstr = s.cntInstr := rfl
@[simp] theorem State.setReg_cntTimer (x : Reg) (b : Byte) : (s.setReg x b).cntTimer = s.cntTimer := rfl
@[simp] theorem State.setReg_fbValid (x : Reg) (b : Byte) : (s.setReg x b).fbValid = s.fbValid := rfl
@[simp] theorem State.setReg_fbData (x : Reg) (b : Byte) : (s.setReg x b).fbData = s.fbData := rfl
@[simp] theorem State.setReg_retire (x : Reg) (b : Byte) : (s.setReg x b).retire = s.retire := rfl
@[simp] theorem State.setReg_retireWord (x : Reg) (b : Byte) : (s.setReg x b).retireWord = s.retireWord := rfl
@[simp] theorem State.setReg_params (x : Reg) (b : Byte) : (s.setReg x b).params = s.params := rfl
@[simp] theorem State.setReg_env (x : Reg) (b : Byte) : (s.setReg x b).env = s.env := rfl

/-! setFlag -/

@[simp] theorem State.setFlag_v (f : Bool) : (s.setFlag f).v = s.v.set vf.val (if f then 1#8 else 0#8) := rfl
@[simp] theorem State.setFlag_i (f : Bool) : (s.setFlag f).i = s.i := rfl
@[simp] theorem State.setFlag_pc (f : Bool) : (s.setFlag f).pc = s.pc := rfl
@[simp] theorem State.setFlag_stack (f : Bool) : (s.setFlag f).stack = s.stack := rfl
@[simp] theorem State.setFlag_sp (f : Bool) : (s.setFlag f).sp = s.sp := rfl
@[simp] theorem State.setFlag_dt (f : Bool) : (s.setFlag f).dt = s.dt := rfl
@[simp] theorem State.setFlag_st (f : Bool) : (s.setFlag f).st = s.st := rfl
@[simp] theorem State.setFlag_fb (f : Bool) : (s.setFlag f).fb = s.fb := rfl
@[simp] theorem State.setFlag_mem (f : Bool) : (s.setFlag f).mem = s.mem := rfl
@[simp] theorem State.setFlag_run (f : Bool) : (s.setFlag f).run = s.run := rfl
@[simp] theorem State.setFlag_haltCause (f : Bool) : (s.setFlag f).haltCause = s.haltCause := rfl
@[simp] theorem State.setFlag_haltInfo (f : Bool) : (s.setFlag f).haltInfo = s.haltInfo := rfl
@[simp] theorem State.setFlag_romCnt (f : Bool) : (s.setFlag f).romCnt = s.romCnt := rfl
@[simp] theorem State.setFlag_cntInstr (f : Bool) : (s.setFlag f).cntInstr = s.cntInstr := rfl
@[simp] theorem State.setFlag_cntTimer (f : Bool) : (s.setFlag f).cntTimer = s.cntTimer := rfl
@[simp] theorem State.setFlag_fbValid (f : Bool) : (s.setFlag f).fbValid = s.fbValid := rfl
@[simp] theorem State.setFlag_fbData (f : Bool) : (s.setFlag f).fbData = s.fbData := rfl
@[simp] theorem State.setFlag_retire (f : Bool) : (s.setFlag f).retire = s.retire := rfl
@[simp] theorem State.setFlag_retireWord (f : Bool) : (s.setFlag f).retireWord = s.retireWord := rfl
@[simp] theorem State.setFlag_params (f : Bool) : (s.setFlag f).params = s.params := rfl
@[simp] theorem State.setFlag_env (f : Bool) : (s.setFlag f).env = s.env := rfl

/-! setResultAndFlag -/

@[simp] theorem State.setResultAndFlag_v (x : Reg) (b : Byte) (f : Bool) : (s.setResultAndFlag x b f).v = (s.v.set x.val b).set vf.val (if f then 1#8 else 0#8) := rfl
@[simp] theorem State.setResultAndFlag_i (x : Reg) (b : Byte) (f : Bool) : (s.setResultAndFlag x b f).i = s.i := rfl
@[simp] theorem State.setResultAndFlag_pc (x : Reg) (b : Byte) (f : Bool) : (s.setResultAndFlag x b f).pc = s.pc := rfl
@[simp] theorem State.setResultAndFlag_stack (x : Reg) (b : Byte) (f : Bool) : (s.setResultAndFlag x b f).stack = s.stack := rfl
@[simp] theorem State.setResultAndFlag_sp (x : Reg) (b : Byte) (f : Bool) : (s.setResultAndFlag x b f).sp = s.sp := rfl
@[simp] theorem State.setResultAndFlag_dt (x : Reg) (b : Byte) (f : Bool) : (s.setResultAndFlag x b f).dt = s.dt := rfl
@[simp] theorem State.setResultAndFlag_st (x : Reg) (b : Byte) (f : Bool) : (s.setResultAndFlag x b f).st = s.st := rfl
@[simp] theorem State.setResultAndFlag_fb (x : Reg) (b : Byte) (f : Bool) : (s.setResultAndFlag x b f).fb = s.fb := rfl
@[simp] theorem State.setResultAndFlag_mem (x : Reg) (b : Byte) (f : Bool) : (s.setResultAndFlag x b f).mem = s.mem := rfl
@[simp] theorem State.setResultAndFlag_run (x : Reg) (b : Byte) (f : Bool) : (s.setResultAndFlag x b f).run = s.run := rfl
@[simp] theorem State.setResultAndFlag_haltCause (x : Reg) (b : Byte) (f : Bool) : (s.setResultAndFlag x b f).haltCause = s.haltCause := rfl
@[simp] theorem State.setResultAndFlag_haltInfo (x : Reg) (b : Byte) (f : Bool) : (s.setResultAndFlag x b f).haltInfo = s.haltInfo := rfl
@[simp] theorem State.setResultAndFlag_romCnt (x : Reg) (b : Byte) (f : Bool) : (s.setResultAndFlag x b f).romCnt = s.romCnt := rfl
@[simp] theorem State.setResultAndFlag_cntInstr (x : Reg) (b : Byte) (f : Bool) : (s.setResultAndFlag x b f).cntInstr = s.cntInstr := rfl
@[simp] theorem State.setResultAndFlag_cntTimer (x : Reg) (b : Byte) (f : Bool) : (s.setResultAndFlag x b f).cntTimer = s.cntTimer := rfl
@[simp] theorem State.setResultAndFlag_fbValid (x : Reg) (b : Byte) (f : Bool) : (s.setResultAndFlag x b f).fbValid = s.fbValid := rfl
@[simp] theorem State.setResultAndFlag_fbData (x : Reg) (b : Byte) (f : Bool) : (s.setResultAndFlag x b f).fbData = s.fbData := rfl
@[simp] theorem State.setResultAndFlag_retire (x : Reg) (b : Byte) (f : Bool) : (s.setResultAndFlag x b f).retire = s.retire := rfl
@[simp] theorem State.setResultAndFlag_retireWord (x : Reg) (b : Byte) (f : Bool) : (s.setResultAndFlag x b f).retireWord = s.retireWord := rfl
@[simp] theorem State.setResultAndFlag_params (x : Reg) (b : Byte) (f : Bool) : (s.setResultAndFlag x b f).params = s.params := rfl
@[simp] theorem State.setResultAndFlag_env (x : Reg) (b : Byte) (f : Bool) : (s.setResultAndFlag x b f).env = s.env := rfl

/-! setRegs -/

@[simp] theorem State.setRegs_v (v : Vector Byte 16) : (s.setRegs v).v = v := rfl
@[simp] theorem State.setRegs_i (v : Vector Byte 16) : (s.setRegs v).i = s.i := rfl
@[simp] theorem State.setRegs_pc (v : Vector Byte 16) : (s.setRegs v).pc = s.pc := rfl
@[simp] theorem State.setRegs_stack (v : Vector Byte 16) : (s.setRegs v).stack = s.stack := rfl
@[simp] theorem State.setRegs_sp (v : Vector Byte 16) : (s.setRegs v).sp = s.sp := rfl
@[simp] theorem State.setRegs_dt (v : Vector Byte 16) : (s.setRegs v).dt = s.dt := rfl
@[simp] theorem State.setRegs_st (v : Vector Byte 16) : (s.setRegs v).st = s.st := rfl
@[simp] theorem State.setRegs_fb (v : Vector Byte 16) : (s.setRegs v).fb = s.fb := rfl
@[simp] theorem State.setRegs_mem (v : Vector Byte 16) : (s.setRegs v).mem = s.mem := rfl
@[simp] theorem State.setRegs_run (v : Vector Byte 16) : (s.setRegs v).run = s.run := rfl
@[simp] theorem State.setRegs_haltCause (v : Vector Byte 16) : (s.setRegs v).haltCause = s.haltCause := rfl
@[simp] theorem State.setRegs_haltInfo (v : Vector Byte 16) : (s.setRegs v).haltInfo = s.haltInfo := rfl
@[simp] theorem State.setRegs_romCnt (v : Vector Byte 16) : (s.setRegs v).romCnt = s.romCnt := rfl
@[simp] theorem State.setRegs_cntInstr (v : Vector Byte 16) : (s.setRegs v).cntInstr = s.cntInstr := rfl
@[simp] theorem State.setRegs_cntTimer (v : Vector Byte 16) : (s.setRegs v).cntTimer = s.cntTimer := rfl
@[simp] theorem State.setRegs_fbValid (v : Vector Byte 16) : (s.setRegs v).fbValid = s.fbValid := rfl
@[simp] theorem State.setRegs_fbData (v : Vector Byte 16) : (s.setRegs v).fbData = s.fbData := rfl
@[simp] theorem State.setRegs_retire (v : Vector Byte 16) : (s.setRegs v).retire = s.retire := rfl
@[simp] theorem State.setRegs_retireWord (v : Vector Byte 16) : (s.setRegs v).retireWord = s.retireWord := rfl
@[simp] theorem State.setRegs_params (v : Vector Byte 16) : (s.setRegs v).params = s.params := rfl
@[simp] theorem State.setRegs_env (v : Vector Byte 16) : (s.setRegs v).env = s.env := rfl

/-! setI -/

@[simp] theorem State.setI_v (a : Word) : (s.setI a).v = s.v := rfl
@[simp] theorem State.setI_i (a : Word) : (s.setI a).i = a := rfl
@[simp] theorem State.setI_pc (a : Word) : (s.setI a).pc = s.pc := rfl
@[simp] theorem State.setI_stack (a : Word) : (s.setI a).stack = s.stack := rfl
@[simp] theorem State.setI_sp (a : Word) : (s.setI a).sp = s.sp := rfl
@[simp] theorem State.setI_dt (a : Word) : (s.setI a).dt = s.dt := rfl
@[simp] theorem State.setI_st (a : Word) : (s.setI a).st = s.st := rfl
@[simp] theorem State.setI_fb (a : Word) : (s.setI a).fb = s.fb := rfl
@[simp] theorem State.setI_mem (a : Word) : (s.setI a).mem = s.mem := rfl
@[simp] theorem State.setI_run (a : Word) : (s.setI a).run = s.run := rfl
@[simp] theorem State.setI_haltCause (a : Word) : (s.setI a).haltCause = s.haltCause := rfl
@[simp] theorem State.setI_haltInfo (a : Word) : (s.setI a).haltInfo = s.haltInfo := rfl
@[simp] theorem State.setI_romCnt (a : Word) : (s.setI a).romCnt = s.romCnt := rfl
@[simp] theorem State.setI_cntInstr (a : Word) : (s.setI a).cntInstr = s.cntInstr := rfl
@[simp] theorem State.setI_cntTimer (a : Word) : (s.setI a).cntTimer = s.cntTimer := rfl
@[simp] theorem State.setI_fbValid (a : Word) : (s.setI a).fbValid = s.fbValid := rfl
@[simp] theorem State.setI_fbData (a : Word) : (s.setI a).fbData = s.fbData := rfl
@[simp] theorem State.setI_retire (a : Word) : (s.setI a).retire = s.retire := rfl
@[simp] theorem State.setI_retireWord (a : Word) : (s.setI a).retireWord = s.retireWord := rfl
@[simp] theorem State.setI_params (a : Word) : (s.setI a).params = s.params := rfl
@[simp] theorem State.setI_env (a : Word) : (s.setI a).env = s.env := rfl

/-! setPc -/

@[simp] theorem State.setPc_v (a : Word) : (s.setPc a).v = s.v := rfl
@[simp] theorem State.setPc_i (a : Word) : (s.setPc a).i = s.i := rfl
@[simp] theorem State.setPc_pc (a : Word) : (s.setPc a).pc = a := rfl
@[simp] theorem State.setPc_stack (a : Word) : (s.setPc a).stack = s.stack := rfl
@[simp] theorem State.setPc_sp (a : Word) : (s.setPc a).sp = s.sp := rfl
@[simp] theorem State.setPc_dt (a : Word) : (s.setPc a).dt = s.dt := rfl
@[simp] theorem State.setPc_st (a : Word) : (s.setPc a).st = s.st := rfl
@[simp] theorem State.setPc_fb (a : Word) : (s.setPc a).fb = s.fb := rfl
@[simp] theorem State.setPc_mem (a : Word) : (s.setPc a).mem = s.mem := rfl
@[simp] theorem State.setPc_run (a : Word) : (s.setPc a).run = s.run := rfl
@[simp] theorem State.setPc_haltCause (a : Word) : (s.setPc a).haltCause = s.haltCause := rfl
@[simp] theorem State.setPc_haltInfo (a : Word) : (s.setPc a).haltInfo = s.haltInfo := rfl
@[simp] theorem State.setPc_romCnt (a : Word) : (s.setPc a).romCnt = s.romCnt := rfl
@[simp] theorem State.setPc_cntInstr (a : Word) : (s.setPc a).cntInstr = s.cntInstr := rfl
@[simp] theorem State.setPc_cntTimer (a : Word) : (s.setPc a).cntTimer = s.cntTimer := rfl
@[simp] theorem State.setPc_fbValid (a : Word) : (s.setPc a).fbValid = s.fbValid := rfl
@[simp] theorem State.setPc_fbData (a : Word) : (s.setPc a).fbData = s.fbData := rfl
@[simp] theorem State.setPc_retire (a : Word) : (s.setPc a).retire = s.retire := rfl
@[simp] theorem State.setPc_retireWord (a : Word) : (s.setPc a).retireWord = s.retireWord := rfl
@[simp] theorem State.setPc_params (a : Word) : (s.setPc a).params = s.params := rfl
@[simp] theorem State.setPc_env (a : Word) : (s.setPc a).env = s.env := rfl

/-! advancePc -/

@[simp] theorem State.advancePc_v : (s.advancePc).v = s.v := rfl
@[simp] theorem State.advancePc_i : (s.advancePc).i = s.i := rfl
@[simp] theorem State.advancePc_pc : (s.advancePc).pc = s.pc + 2#16 := rfl
@[simp] theorem State.advancePc_stack : (s.advancePc).stack = s.stack := rfl
@[simp] theorem State.advancePc_sp : (s.advancePc).sp = s.sp := rfl
@[simp] theorem State.advancePc_dt : (s.advancePc).dt = s.dt := rfl
@[simp] theorem State.advancePc_st : (s.advancePc).st = s.st := rfl
@[simp] theorem State.advancePc_fb : (s.advancePc).fb = s.fb := rfl
@[simp] theorem State.advancePc_mem : (s.advancePc).mem = s.mem := rfl
@[simp] theorem State.advancePc_run : (s.advancePc).run = s.run := rfl
@[simp] theorem State.advancePc_haltCause : (s.advancePc).haltCause = s.haltCause := rfl
@[simp] theorem State.advancePc_haltInfo : (s.advancePc).haltInfo = s.haltInfo := rfl
@[simp] theorem State.advancePc_romCnt : (s.advancePc).romCnt = s.romCnt := rfl
@[simp] theorem State.advancePc_cntInstr : (s.advancePc).cntInstr = s.cntInstr := rfl
@[simp] theorem State.advancePc_cntTimer : (s.advancePc).cntTimer = s.cntTimer := rfl
@[simp] theorem State.advancePc_fbValid : (s.advancePc).fbValid = s.fbValid := rfl
@[simp] theorem State.advancePc_fbData : (s.advancePc).fbData = s.fbData := rfl
@[simp] theorem State.advancePc_retire : (s.advancePc).retire = s.retire := rfl
@[simp] theorem State.advancePc_retireWord : (s.advancePc).retireWord = s.retireWord := rfl
@[simp] theorem State.advancePc_params : (s.advancePc).params = s.params := rfl
@[simp] theorem State.advancePc_env : (s.advancePc).env = s.env := rfl

/-! skipIf -/

@[simp] theorem State.skipIf_v (c : Bool) : (s.skipIf c).v = s.v := rfl
@[simp] theorem State.skipIf_i (c : Bool) : (s.skipIf c).i = s.i := rfl
@[simp] theorem State.skipIf_pc (c : Bool) : (s.skipIf c).pc = if c then s.pc + 2#16 else s.pc := rfl
@[simp] theorem State.skipIf_stack (c : Bool) : (s.skipIf c).stack = s.stack := rfl
@[simp] theorem State.skipIf_sp (c : Bool) : (s.skipIf c).sp = s.sp := rfl
@[simp] theorem State.skipIf_dt (c : Bool) : (s.skipIf c).dt = s.dt := rfl
@[simp] theorem State.skipIf_st (c : Bool) : (s.skipIf c).st = s.st := rfl
@[simp] theorem State.skipIf_fb (c : Bool) : (s.skipIf c).fb = s.fb := rfl
@[simp] theorem State.skipIf_mem (c : Bool) : (s.skipIf c).mem = s.mem := rfl
@[simp] theorem State.skipIf_run (c : Bool) : (s.skipIf c).run = s.run := rfl
@[simp] theorem State.skipIf_haltCause (c : Bool) : (s.skipIf c).haltCause = s.haltCause := rfl
@[simp] theorem State.skipIf_haltInfo (c : Bool) : (s.skipIf c).haltInfo = s.haltInfo := rfl
@[simp] theorem State.skipIf_romCnt (c : Bool) : (s.skipIf c).romCnt = s.romCnt := rfl
@[simp] theorem State.skipIf_cntInstr (c : Bool) : (s.skipIf c).cntInstr = s.cntInstr := rfl
@[simp] theorem State.skipIf_cntTimer (c : Bool) : (s.skipIf c).cntTimer = s.cntTimer := rfl
@[simp] theorem State.skipIf_fbValid (c : Bool) : (s.skipIf c).fbValid = s.fbValid := rfl
@[simp] theorem State.skipIf_fbData (c : Bool) : (s.skipIf c).fbData = s.fbData := rfl
@[simp] theorem State.skipIf_retire (c : Bool) : (s.skipIf c).retire = s.retire := rfl
@[simp] theorem State.skipIf_retireWord (c : Bool) : (s.skipIf c).retireWord = s.retireWord := rfl
@[simp] theorem State.skipIf_params (c : Bool) : (s.skipIf c).params = s.params := rfl
@[simp] theorem State.skipIf_env (c : Bool) : (s.skipIf c).env = s.env := rfl

/-! setMem -/

@[simp] theorem State.setMem_v (m : Memory) : (s.setMem m).v = s.v := rfl
@[simp] theorem State.setMem_i (m : Memory) : (s.setMem m).i = s.i := rfl
@[simp] theorem State.setMem_pc (m : Memory) : (s.setMem m).pc = s.pc := rfl
@[simp] theorem State.setMem_stack (m : Memory) : (s.setMem m).stack = s.stack := rfl
@[simp] theorem State.setMem_sp (m : Memory) : (s.setMem m).sp = s.sp := rfl
@[simp] theorem State.setMem_dt (m : Memory) : (s.setMem m).dt = s.dt := rfl
@[simp] theorem State.setMem_st (m : Memory) : (s.setMem m).st = s.st := rfl
@[simp] theorem State.setMem_fb (m : Memory) : (s.setMem m).fb = s.fb := rfl
@[simp] theorem State.setMem_mem (m : Memory) : (s.setMem m).mem = m := rfl
@[simp] theorem State.setMem_run (m : Memory) : (s.setMem m).run = s.run := rfl
@[simp] theorem State.setMem_haltCause (m : Memory) : (s.setMem m).haltCause = s.haltCause := rfl
@[simp] theorem State.setMem_haltInfo (m : Memory) : (s.setMem m).haltInfo = s.haltInfo := rfl
@[simp] theorem State.setMem_romCnt (m : Memory) : (s.setMem m).romCnt = s.romCnt := rfl
@[simp] theorem State.setMem_cntInstr (m : Memory) : (s.setMem m).cntInstr = s.cntInstr := rfl
@[simp] theorem State.setMem_cntTimer (m : Memory) : (s.setMem m).cntTimer = s.cntTimer := rfl
@[simp] theorem State.setMem_fbValid (m : Memory) : (s.setMem m).fbValid = s.fbValid := rfl
@[simp] theorem State.setMem_fbData (m : Memory) : (s.setMem m).fbData = s.fbData := rfl
@[simp] theorem State.setMem_retire (m : Memory) : (s.setMem m).retire = s.retire := rfl
@[simp] theorem State.setMem_retireWord (m : Memory) : (s.setMem m).retireWord = s.retireWord := rfl
@[simp] theorem State.setMem_params (m : Memory) : (s.setMem m).params = s.params := rfl
@[simp] theorem State.setMem_env (m : Memory) : (s.setMem m).env = s.env := rfl

/-! setFb -/

@[simp] theorem State.setFb_v (fb : Framebuffer) : (s.setFb fb).v = s.v := rfl
@[simp] theorem State.setFb_i (fb : Framebuffer) : (s.setFb fb).i = s.i := rfl
@[simp] theorem State.setFb_pc (fb : Framebuffer) : (s.setFb fb).pc = s.pc := rfl
@[simp] theorem State.setFb_stack (fb : Framebuffer) : (s.setFb fb).stack = s.stack := rfl
@[simp] theorem State.setFb_sp (fb : Framebuffer) : (s.setFb fb).sp = s.sp := rfl
@[simp] theorem State.setFb_dt (fb : Framebuffer) : (s.setFb fb).dt = s.dt := rfl
@[simp] theorem State.setFb_st (fb : Framebuffer) : (s.setFb fb).st = s.st := rfl
@[simp] theorem State.setFb_fb (fb : Framebuffer) : (s.setFb fb).fb = fb := rfl
@[simp] theorem State.setFb_mem (fb : Framebuffer) : (s.setFb fb).mem = s.mem := rfl
@[simp] theorem State.setFb_run (fb : Framebuffer) : (s.setFb fb).run = s.run := rfl
@[simp] theorem State.setFb_haltCause (fb : Framebuffer) : (s.setFb fb).haltCause = s.haltCause := rfl
@[simp] theorem State.setFb_haltInfo (fb : Framebuffer) : (s.setFb fb).haltInfo = s.haltInfo := rfl
@[simp] theorem State.setFb_romCnt (fb : Framebuffer) : (s.setFb fb).romCnt = s.romCnt := rfl
@[simp] theorem State.setFb_cntInstr (fb : Framebuffer) : (s.setFb fb).cntInstr = s.cntInstr := rfl
@[simp] theorem State.setFb_cntTimer (fb : Framebuffer) : (s.setFb fb).cntTimer = s.cntTimer := rfl
@[simp] theorem State.setFb_fbValid (fb : Framebuffer) : (s.setFb fb).fbValid = s.fbValid := rfl
@[simp] theorem State.setFb_fbData (fb : Framebuffer) : (s.setFb fb).fbData = s.fbData := rfl
@[simp] theorem State.setFb_retire (fb : Framebuffer) : (s.setFb fb).retire = s.retire := rfl
@[simp] theorem State.setFb_retireWord (fb : Framebuffer) : (s.setFb fb).retireWord = s.retireWord := rfl
@[simp] theorem State.setFb_params (fb : Framebuffer) : (s.setFb fb).params = s.params := rfl
@[simp] theorem State.setFb_env (fb : Framebuffer) : (s.setFb fb).env = s.env := rfl

/-! setDt -/

@[simp] theorem State.setDt_v (b : Byte) : (s.setDt b).v = s.v := rfl
@[simp] theorem State.setDt_i (b : Byte) : (s.setDt b).i = s.i := rfl
@[simp] theorem State.setDt_pc (b : Byte) : (s.setDt b).pc = s.pc := rfl
@[simp] theorem State.setDt_stack (b : Byte) : (s.setDt b).stack = s.stack := rfl
@[simp] theorem State.setDt_sp (b : Byte) : (s.setDt b).sp = s.sp := rfl
@[simp] theorem State.setDt_dt (b : Byte) : (s.setDt b).dt = b := rfl
@[simp] theorem State.setDt_st (b : Byte) : (s.setDt b).st = s.st := rfl
@[simp] theorem State.setDt_fb (b : Byte) : (s.setDt b).fb = s.fb := rfl
@[simp] theorem State.setDt_mem (b : Byte) : (s.setDt b).mem = s.mem := rfl
@[simp] theorem State.setDt_run (b : Byte) : (s.setDt b).run = s.run := rfl
@[simp] theorem State.setDt_haltCause (b : Byte) : (s.setDt b).haltCause = s.haltCause := rfl
@[simp] theorem State.setDt_haltInfo (b : Byte) : (s.setDt b).haltInfo = s.haltInfo := rfl
@[simp] theorem State.setDt_romCnt (b : Byte) : (s.setDt b).romCnt = s.romCnt := rfl
@[simp] theorem State.setDt_cntInstr (b : Byte) : (s.setDt b).cntInstr = s.cntInstr := rfl
@[simp] theorem State.setDt_cntTimer (b : Byte) : (s.setDt b).cntTimer = s.cntTimer := rfl
@[simp] theorem State.setDt_fbValid (b : Byte) : (s.setDt b).fbValid = s.fbValid := rfl
@[simp] theorem State.setDt_fbData (b : Byte) : (s.setDt b).fbData = s.fbData := rfl
@[simp] theorem State.setDt_retire (b : Byte) : (s.setDt b).retire = s.retire := rfl
@[simp] theorem State.setDt_retireWord (b : Byte) : (s.setDt b).retireWord = s.retireWord := rfl
@[simp] theorem State.setDt_params (b : Byte) : (s.setDt b).params = s.params := rfl
@[simp] theorem State.setDt_env (b : Byte) : (s.setDt b).env = s.env := rfl

/-! setSt -/

@[simp] theorem State.setSt_v (b : Byte) : (s.setSt b).v = s.v := rfl
@[simp] theorem State.setSt_i (b : Byte) : (s.setSt b).i = s.i := rfl
@[simp] theorem State.setSt_pc (b : Byte) : (s.setSt b).pc = s.pc := rfl
@[simp] theorem State.setSt_stack (b : Byte) : (s.setSt b).stack = s.stack := rfl
@[simp] theorem State.setSt_sp (b : Byte) : (s.setSt b).sp = s.sp := rfl
@[simp] theorem State.setSt_dt (b : Byte) : (s.setSt b).dt = s.dt := rfl
@[simp] theorem State.setSt_st (b : Byte) : (s.setSt b).st = b := rfl
@[simp] theorem State.setSt_fb (b : Byte) : (s.setSt b).fb = s.fb := rfl
@[simp] theorem State.setSt_mem (b : Byte) : (s.setSt b).mem = s.mem := rfl
@[simp] theorem State.setSt_run (b : Byte) : (s.setSt b).run = s.run := rfl
@[simp] theorem State.setSt_haltCause (b : Byte) : (s.setSt b).haltCause = s.haltCause := rfl
@[simp] theorem State.setSt_haltInfo (b : Byte) : (s.setSt b).haltInfo = s.haltInfo := rfl
@[simp] theorem State.setSt_romCnt (b : Byte) : (s.setSt b).romCnt = s.romCnt := rfl
@[simp] theorem State.setSt_cntInstr (b : Byte) : (s.setSt b).cntInstr = s.cntInstr := rfl
@[simp] theorem State.setSt_cntTimer (b : Byte) : (s.setSt b).cntTimer = s.cntTimer := rfl
@[simp] theorem State.setSt_fbValid (b : Byte) : (s.setSt b).fbValid = s.fbValid := rfl
@[simp] theorem State.setSt_fbData (b : Byte) : (s.setSt b).fbData = s.fbData := rfl
@[simp] theorem State.setSt_retire (b : Byte) : (s.setSt b).retire = s.retire := rfl
@[simp] theorem State.setSt_retireWord (b : Byte) : (s.setSt b).retireWord = s.retireWord := rfl
@[simp] theorem State.setSt_params (b : Byte) : (s.setSt b).params = s.params := rfl
@[simp] theorem State.setSt_env (b : Byte) : (s.setSt b).env = s.env := rfl

/-! halt -/

@[simp] theorem State.halt_v (c : HaltCause) (w : Word) : (s.halt c w).v = s.v := rfl
@[simp] theorem State.halt_i (c : HaltCause) (w : Word) : (s.halt c w).i = s.i := rfl
@[simp] theorem State.halt_pc (c : HaltCause) (w : Word) : (s.halt c w).pc = s.pc := rfl
@[simp] theorem State.halt_stack (c : HaltCause) (w : Word) : (s.halt c w).stack = s.stack := rfl
@[simp] theorem State.halt_sp (c : HaltCause) (w : Word) : (s.halt c w).sp = s.sp := rfl
@[simp] theorem State.halt_dt (c : HaltCause) (w : Word) : (s.halt c w).dt = s.dt := rfl
@[simp] theorem State.halt_st (c : HaltCause) (w : Word) : (s.halt c w).st = s.st := rfl
@[simp] theorem State.halt_fb (c : HaltCause) (w : Word) : (s.halt c w).fb = s.fb := rfl
@[simp] theorem State.halt_mem (c : HaltCause) (w : Word) : (s.halt c w).mem = s.mem := rfl
@[simp] theorem State.halt_run (c : HaltCause) (w : Word) : (s.halt c w).run = .halted := rfl
@[simp] theorem State.halt_haltCause (c : HaltCause) (w : Word) : (s.halt c w).haltCause = c := rfl
@[simp] theorem State.halt_haltInfo (c : HaltCause) (w : Word) : (s.halt c w).haltInfo = w := rfl
@[simp] theorem State.halt_romCnt (c : HaltCause) (w : Word) : (s.halt c w).romCnt = s.romCnt := rfl
@[simp] theorem State.halt_cntInstr (c : HaltCause) (w : Word) : (s.halt c w).cntInstr = s.cntInstr := rfl
@[simp] theorem State.halt_cntTimer (c : HaltCause) (w : Word) : (s.halt c w).cntTimer = s.cntTimer := rfl
@[simp] theorem State.halt_fbValid (c : HaltCause) (w : Word) : (s.halt c w).fbValid = s.fbValid := rfl
@[simp] theorem State.halt_fbData (c : HaltCause) (w : Word) : (s.halt c w).fbData = s.fbData := rfl
@[simp] theorem State.halt_retire (c : HaltCause) (w : Word) : (s.halt c w).retire = s.retire := rfl
@[simp] theorem State.halt_retireWord (c : HaltCause) (w : Word) : (s.halt c w).retireWord = s.retireWord := rfl
@[simp] theorem State.halt_params (c : HaltCause) (w : Word) : (s.halt c w).params = s.params := rfl
@[simp] theorem State.halt_env (c : HaltCause) (w : Word) : (s.halt c w).env = s.env := rfl

/-! lowerPulses -/

@[simp] theorem State.lowerPulses_v : (s.lowerPulses).v = s.v := rfl
@[simp] theorem State.lowerPulses_i : (s.lowerPulses).i = s.i := rfl
@[simp] theorem State.lowerPulses_pc : (s.lowerPulses).pc = s.pc := rfl
@[simp] theorem State.lowerPulses_stack : (s.lowerPulses).stack = s.stack := rfl
@[simp] theorem State.lowerPulses_sp : (s.lowerPulses).sp = s.sp := rfl
@[simp] theorem State.lowerPulses_dt : (s.lowerPulses).dt = s.dt := rfl
@[simp] theorem State.lowerPulses_st : (s.lowerPulses).st = s.st := rfl
@[simp] theorem State.lowerPulses_fb : (s.lowerPulses).fb = s.fb := rfl
@[simp] theorem State.lowerPulses_mem : (s.lowerPulses).mem = s.mem := rfl
@[simp] theorem State.lowerPulses_run : (s.lowerPulses).run = s.run := rfl
@[simp] theorem State.lowerPulses_haltCause : (s.lowerPulses).haltCause = s.haltCause := rfl
@[simp] theorem State.lowerPulses_haltInfo : (s.lowerPulses).haltInfo = s.haltInfo := rfl
@[simp] theorem State.lowerPulses_romCnt : (s.lowerPulses).romCnt = s.romCnt := rfl
@[simp] theorem State.lowerPulses_cntInstr : (s.lowerPulses).cntInstr = s.cntInstr := rfl
@[simp] theorem State.lowerPulses_cntTimer : (s.lowerPulses).cntTimer = s.cntTimer := rfl
@[simp] theorem State.lowerPulses_fbValid : (s.lowerPulses).fbValid = false := rfl
@[simp] theorem State.lowerPulses_fbData : (s.lowerPulses).fbData = s.fbData := rfl
@[simp] theorem State.lowerPulses_retire : (s.lowerPulses).retire = false := rfl
@[simp] theorem State.lowerPulses_retireWord : (s.lowerPulses).retireWord = s.retireWord := rfl
@[simp] theorem State.lowerPulses_params : (s.lowerPulses).params = s.params := rfl
@[simp] theorem State.lowerPulses_env : (s.lowerPulses).env = s.env := rfl

/-! pulseRetire -/

@[simp] theorem State.pulseRetire_v (w : Word) : (s.pulseRetire w).v = s.v := rfl
@[simp] theorem State.pulseRetire_i (w : Word) : (s.pulseRetire w).i = s.i := rfl
@[simp] theorem State.pulseRetire_pc (w : Word) : (s.pulseRetire w).pc = s.pc := rfl
@[simp] theorem State.pulseRetire_stack (w : Word) : (s.pulseRetire w).stack = s.stack := rfl
@[simp] theorem State.pulseRetire_sp (w : Word) : (s.pulseRetire w).sp = s.sp := rfl
@[simp] theorem State.pulseRetire_dt (w : Word) : (s.pulseRetire w).dt = s.dt := rfl
@[simp] theorem State.pulseRetire_st (w : Word) : (s.pulseRetire w).st = s.st := rfl
@[simp] theorem State.pulseRetire_fb (w : Word) : (s.pulseRetire w).fb = s.fb := rfl
@[simp] theorem State.pulseRetire_mem (w : Word) : (s.pulseRetire w).mem = s.mem := rfl
@[simp] theorem State.pulseRetire_run (w : Word) : (s.pulseRetire w).run = s.run := rfl
@[simp] theorem State.pulseRetire_haltCause (w : Word) : (s.pulseRetire w).haltCause = s.haltCause := rfl
@[simp] theorem State.pulseRetire_haltInfo (w : Word) : (s.pulseRetire w).haltInfo = s.haltInfo := rfl
@[simp] theorem State.pulseRetire_romCnt (w : Word) : (s.pulseRetire w).romCnt = s.romCnt := rfl
@[simp] theorem State.pulseRetire_cntInstr (w : Word) : (s.pulseRetire w).cntInstr = s.cntInstr := rfl
@[simp] theorem State.pulseRetire_cntTimer (w : Word) : (s.pulseRetire w).cntTimer = s.cntTimer := rfl
@[simp] theorem State.pulseRetire_fbValid (w : Word) : (s.pulseRetire w).fbValid = s.fbValid := rfl
@[simp] theorem State.pulseRetire_fbData (w : Word) : (s.pulseRetire w).fbData = s.fbData := rfl
@[simp] theorem State.pulseRetire_retire (w : Word) : (s.pulseRetire w).retire = true := rfl
@[simp] theorem State.pulseRetire_retireWord (w : Word) : (s.pulseRetire w).retireWord = w := rfl
@[simp] theorem State.pulseRetire_params (w : Word) : (s.pulseRetire w).params = s.params := rfl
@[simp] theorem State.pulseRetire_env (w : Word) : (s.pulseRetire w).env = s.env := rfl

/-! timerStep -/

@[simp] theorem State.timerStep_v : (s.timerStep).v = s.v := rfl
@[simp] theorem State.timerStep_i : (s.timerStep).i = s.i := rfl
@[simp] theorem State.timerStep_pc : (s.timerStep).pc = s.pc := rfl
@[simp] theorem State.timerStep_stack : (s.timerStep).stack = s.stack := rfl
@[simp] theorem State.timerStep_sp : (s.timerStep).sp = s.sp := rfl
@[simp] theorem State.timerStep_dt : (s.timerStep).dt = countDown s.dt := rfl
@[simp] theorem State.timerStep_st : (s.timerStep).st = countDown s.st := rfl
@[simp] theorem State.timerStep_fb : (s.timerStep).fb = s.fb := rfl
@[simp] theorem State.timerStep_mem : (s.timerStep).mem = s.mem := rfl
@[simp] theorem State.timerStep_run : (s.timerStep).run = s.run := rfl
@[simp] theorem State.timerStep_haltCause : (s.timerStep).haltCause = s.haltCause := rfl
@[simp] theorem State.timerStep_haltInfo : (s.timerStep).haltInfo = s.haltInfo := rfl
@[simp] theorem State.timerStep_romCnt : (s.timerStep).romCnt = s.romCnt := rfl
@[simp] theorem State.timerStep_cntInstr : (s.timerStep).cntInstr = s.cntInstr := rfl
@[simp] theorem State.timerStep_cntTimer : (s.timerStep).cntTimer = s.cntTimer := rfl
@[simp] theorem State.timerStep_fbValid : (s.timerStep).fbValid = true := rfl
@[simp] theorem State.timerStep_fbData : (s.timerStep).fbData = s.fb := rfl
@[simp] theorem State.timerStep_retire : (s.timerStep).retire = s.retire := rfl
@[simp] theorem State.timerStep_retireWord : (s.timerStep).retireWord = s.retireWord := rfl
@[simp] theorem State.timerStep_params : (s.timerStep).params = s.params := rfl
@[simp] theorem State.timerStep_env : (s.timerStep).env = s.env := rfl

/-! nextSample -/

@[simp] theorem State.nextSample_v : (s.nextSample).v = s.v := rfl
@[simp] theorem State.nextSample_i : (s.nextSample).i = s.i := rfl
@[simp] theorem State.nextSample_pc : (s.nextSample).pc = s.pc := rfl
@[simp] theorem State.nextSample_stack : (s.nextSample).stack = s.stack := rfl
@[simp] theorem State.nextSample_sp : (s.nextSample).sp = s.sp := rfl
@[simp] theorem State.nextSample_dt : (s.nextSample).dt = s.dt := rfl
@[simp] theorem State.nextSample_st : (s.nextSample).st = s.st := rfl
@[simp] theorem State.nextSample_fb : (s.nextSample).fb = s.fb := rfl
@[simp] theorem State.nextSample_mem : (s.nextSample).mem = s.mem := rfl
@[simp] theorem State.nextSample_run : (s.nextSample).run = s.run := rfl
@[simp] theorem State.nextSample_haltCause : (s.nextSample).haltCause = s.haltCause := rfl
@[simp] theorem State.nextSample_haltInfo : (s.nextSample).haltInfo = s.haltInfo := rfl
@[simp] theorem State.nextSample_romCnt : (s.nextSample).romCnt = s.romCnt := rfl
@[simp] theorem State.nextSample_cntInstr : (s.nextSample).cntInstr = s.cntInstr := rfl
@[simp] theorem State.nextSample_cntTimer : (s.nextSample).cntTimer = s.cntTimer := rfl
@[simp] theorem State.nextSample_fbValid : (s.nextSample).fbValid = s.fbValid := rfl
@[simp] theorem State.nextSample_fbData : (s.nextSample).fbData = s.fbData := rfl
@[simp] theorem State.nextSample_retire : (s.nextSample).retire = s.retire := rfl
@[simp] theorem State.nextSample_retireWord : (s.nextSample).retireWord = s.retireWord := rfl
@[simp] theorem State.nextSample_params : (s.nextSample).params = s.params := rfl
@[simp] theorem State.nextSample_env : (s.nextSample).env = s.env.advance := rfl

/-! enterRunning -/

@[simp] theorem State.enterRunning_v : (s.enterRunning).v = s.v := rfl
@[simp] theorem State.enterRunning_i : (s.enterRunning).i = s.i := rfl
@[simp] theorem State.enterRunning_pc : (s.enterRunning).pc = 512#16 := rfl
@[simp] theorem State.enterRunning_stack : (s.enterRunning).stack = s.stack := rfl
@[simp] theorem State.enterRunning_sp : (s.enterRunning).sp = s.sp := rfl
@[simp] theorem State.enterRunning_dt : (s.enterRunning).dt = s.dt := rfl
@[simp] theorem State.enterRunning_st : (s.enterRunning).st = s.st := rfl
@[simp] theorem State.enterRunning_fb : (s.enterRunning).fb = s.fb := rfl
@[simp] theorem State.enterRunning_mem : (s.enterRunning).mem = s.mem.writeBytes 0 s.params.font.toList := rfl
@[simp] theorem State.enterRunning_run : (s.enterRunning).run = .running := rfl
@[simp] theorem State.enterRunning_haltCause : (s.enterRunning).haltCause = s.haltCause := rfl
@[simp] theorem State.enterRunning_haltInfo : (s.enterRunning).haltInfo = s.haltInfo := rfl
@[simp] theorem State.enterRunning_romCnt : (s.enterRunning).romCnt = s.romCnt := rfl
@[simp] theorem State.enterRunning_cntInstr : (s.enterRunning).cntInstr = s.counterOnEntry s.params.pInstr s.cntInstr := rfl
@[simp] theorem State.enterRunning_cntTimer : (s.enterRunning).cntTimer = s.counterOnEntry s.params.pTimer s.cntTimer := rfl
@[simp] theorem State.enterRunning_fbValid : (s.enterRunning).fbValid = s.fbValid := rfl
@[simp] theorem State.enterRunning_fbData : (s.enterRunning).fbData = s.fbData := rfl
@[simp] theorem State.enterRunning_retire : (s.enterRunning).retire = s.retire := rfl
@[simp] theorem State.enterRunning_retireWord : (s.enterRunning).retireWord = s.retireWord := rfl
@[simp] theorem State.enterRunning_params : (s.enterRunning).params = s.params := rfl
@[simp] theorem State.enterRunning_env : (s.enterRunning).env = s.env := rfl

end Sys2Proof.Machine
end

