-- ==== Sys2Proof/Laws/Memory.lean ====
section
/-! SUPPORT. Memory: reads after writes, the canonical form kept by every operation, and the range check. -/

namespace Sys2Proof.Machine

variable {m m' : Memory} {lo a a' : Nat} {b : Byte} {bs : List Byte}

@[simp] theorem Memory.read_nil (a : Nat) : Memory.read [] a = 0#8 := rfl

theorem Memory.read_cons (k : Nat) (c : Byte) (rest : Memory) (a : Nat) :
    Memory.read ((k, c) :: rest) a = if a = k then c else Memory.read rest a := rfl

theorem Memory.wfFrom_cons {k : Nat} {c : Byte} {rest : Memory} :
    Memory.wfFrom lo ((k, c) :: rest) = true ↔
      lo ≤ k ∧ k ≤ lastAddress ∧ c ≠ 0#8 ∧ Memory.wfFrom (k + 1) rest = true := by
  simp [Memory.wfFrom, and_assoc]

theorem Memory.wfFrom_mono (hm : Memory.wfFrom lo m = true) (h : a ≤ lo) : Memory.wfFrom a m = true := by
  cases m with
  | nil => rfl
  | cons p rest =>
    obtain ⟨k, c⟩ := p
    rw [Memory.wfFrom_cons] at hm ⊢
    exact ⟨by omega, hm.2⟩

/-- Below the first address a list may hold, every cell reads as 0. -/
theorem Memory.read_of_lt (hm : Memory.wfFrom lo m = true) (h : a < lo) : m.read a = 0#8 := by
  induction m generalizing lo with
  | nil => rfl
  | cons p rest ih =>
    obtain ⟨k, c⟩ := p
    rw [Memory.wfFrom_cons] at hm
    rw [Memory.read_cons, if_neg (by omega)]
    exact ih hm.2.2.2 (by omega)

/-- Above the last address, every cell reads as 0: there is none. -/
theorem Memory.read_of_gt (hm : Memory.wfFrom lo m = true) (h : lastAddress < a) : m.read a = 0#8 := by
  induction m generalizing lo with
  | nil => rfl
  | cons p rest ih =>
    obtain ⟨k, c⟩ := p
    rw [Memory.wfFrom_cons] at hm
    rw [Memory.read_cons, if_neg (by omega)]
    exact ih hm.2.2.2

theorem Memory.wfFrom_write (hm : Memory.wfFrom lo m = true) (hlo : lo ≤ a) (ha : a ≤ lastAddress) (b : Byte) :
    Memory.wfFrom lo (m.write a b) = true := by
  induction m generalizing lo with
  | nil =>
    by_cases hb : b = 0#8
    · simp [Memory.write, hb, Memory.wfFrom]
    · simp [Memory.write, hb, Memory.wfFrom, hlo, ha]
  | cons p rest ih =>
    obtain ⟨k, c⟩ := p
    rw [Memory.wfFrom_cons] at hm
    obtain ⟨h1, h2, h3, h4⟩ := hm
    unfold Memory.write
    split
    · split
      · exact Memory.wfFrom_cons.2 ⟨h1, h2, h3, h4⟩
      · rename_i h hb
        exact Memory.wfFrom_cons.2 ⟨hlo, ha, hb, Memory.wfFrom_cons.2 ⟨by omega, h2, h3, h4⟩⟩
    · split
      · split
        · exact Memory.wfFrom_mono h4 (by omega)
        · rename_i hb
          exact Memory.wfFrom_cons.2 ⟨h1, h2, hb, h4⟩
      · exact Memory.wfFrom_cons.2 ⟨h1, h2, h3, ih h4 (by omega)⟩

/-- A read after a write: the written value at its address, the old one elsewhere (20_memory.md R67). -/
theorem Memory.read_write_from (hm : Memory.wfFrom lo m = true) (a : Nat) (b : Byte) (a' : Nat) :
    (m.write a b).read a' = if a' = a then b else m.read a' := by
  induction m generalizing lo with
  | nil =>
    by_cases hb : b = 0#8
    · simp [Memory.write, hb]
    · simp [Memory.write, hb, Memory.read_cons]
  | cons p rest ih =>
    obtain ⟨k, c⟩ := p
    rw [Memory.wfFrom_cons] at hm
    obtain ⟨h1, h2, h3, h4⟩ := hm
    unfold Memory.write
    split
    · rename_i hak
      split
      · rename_i hb
        by_cases e : a' = a
        · subst e
          rw [if_pos rfl, Memory.read_cons, if_neg (by omega), Memory.read_of_lt h4 (by omega), hb]
        · rw [if_neg e]
      · rw [Memory.read_cons]
    · split
      · rename_i hak
        subst hak
        split
        · rename_i hb
          by_cases e : a' = a
          · subst e
            rw [if_pos rfl, Memory.read_of_lt h4 (by omega), hb]
          · rw [if_neg e, Memory.read_cons, if_neg e]
        · rw [Memory.read_cons, Memory.read_cons]
          by_cases e : a' = a <;> simp [e]
      · rw [Memory.read_cons, Memory.read_cons, ih h4]
        by_cases e : a' = k
        · subst e
          rw [if_pos rfl, if_pos rfl, if_neg (by omega)]
        · rw [if_neg e, if_neg e]

theorem Memory.read_write (hm : m.wf = true) (a : Nat) (b : Byte) (a' : Nat) :
    (m.write a b).read a' = if a' = a then b else m.read a' := Memory.read_write_from hm a b a'

/-- A write inside the memory keeps the canonical form. -/
theorem Memory.wf_write (hm : m.wf = true) (ha : a ≤ lastAddress) (b : Byte) : (m.write a b).wf = true :=
  Memory.wfFrom_write hm (Nat.zero_le a) ha b

/-- Writes inside the memory keep the canonical form. -/
theorem Memory.wf_writeBytes (hm : m.wf = true) (h : bs = [] ∨ a + bs.length ≤ lastAddress + 1) :
    (m.writeBytes a bs).wf = true := by
  induction bs generalizing m a with
  | nil => exact hm
  | cons b bs ih =>
    simp only [reduceCtorEq, List.length_cons, false_or] at h
    exact ih (Memory.wf_write hm (by omega) b) (by by_cases e : bs = [] <;> [exact .inl e; exact .inr (by omega)])

/-- A read after a run of writes: the written byte inside it, the old one outside. -/
theorem Memory.read_writeBytes (hm : m.wf = true) (h : a + bs.length ≤ lastAddress + 1) (a' : Nat) :
    (m.writeBytes a bs).read a' = if h' : a ≤ a' ∧ a' < a + bs.length then bs[a' - a] else m.read a' := by
  induction bs generalizing m a with
  | nil => simp [Memory.writeBytes, show ¬(a ≤ a' ∧ a' < a) by omega]
  | cons b bs ih =>
    simp only [List.length_cons] at h ⊢
    rw [Memory.writeBytes, ih (Memory.wf_write hm (by omega) b) (by omega)]
    rcases Nat.lt_trichotomy a' a with hlt | heq | hgt
    · rw [dif_neg (by omega), dif_neg (by omega), Memory.read_write hm, if_neg (by omega)]
    · subst heq
      rw [dif_neg (by omega), dif_pos (by omega), Memory.read_write hm, if_pos rfl]
      simp
    · by_cases hin : a' < a + 1 + bs.length
      · rw [dif_pos (by omega), dif_pos (by omega)]
        obtain ⟨d, rfl⟩ : ∃ d, a' = a + 1 + d := ⟨a' - (a + 1), by omega⟩
        simp [show a + 1 + d - (a + 1) = d by omega, show a + 1 + d - a = d + 1 by omega]
      · rw [dif_neg (by omega), dif_neg (by omega), Memory.read_write hm, if_neg (by omega)]

/-- Memories in the canonical form that read alike everywhere are equal data. -/
theorem Memory.eq_of_read_eq (hm : Memory.wfFrom lo m = true) (hm' : Memory.wfFrom lo m' = true)
    (h : ∀ a, m.read a = m'.read a) : m = m' := by
  induction m generalizing lo m' with
  | nil =>
    cases m' with
    | nil => rfl
    | cons q rest' =>
      obtain ⟨k', c'⟩ := q
      rw [Memory.wfFrom_cons] at hm'
      exact absurd (by simpa [Memory.read_cons] using (h k').symm) hm'.2.2.1
  | cons p rest ih =>
    obtain ⟨k, c⟩ := p
    rw [Memory.wfFrom_cons] at hm
    obtain ⟨h1, h2, h3, h4⟩ := hm
    cases m' with
    | nil => exact absurd (by simpa [Memory.read_cons] using h k) h3
    | cons q rest' =>
      obtain ⟨k', c'⟩ := q
      rw [Memory.wfFrom_cons] at hm'
      obtain ⟨h1', h2', h3', h4'⟩ := hm'
      have hk : k = k' := by
        rcases Nat.lt_trichotomy k k' with hlt | heq | hgt
        · have := h k
          rw [Memory.read_cons, if_pos rfl, Memory.read_cons, if_neg (by omega),
            Memory.read_of_lt h4' (by omega)] at this
          exact absurd this h3
        · exact heq
        · have := h k'
          rw [Memory.read_cons, if_neg (by omega), Memory.read_cons, if_pos rfl,
            Memory.read_of_lt h4 (by omega)] at this
          exact absurd this.symm h3'
      subst hk
      have hc : c = c' := by simpa [Memory.read_cons] using h k
      subst hc
      refine congrArg _ (ih h4 h4' fun a => ?_)
      by_cases e : a = k
      · subst e
        rw [Memory.read_of_lt h4 (by omega), Memory.read_of_lt h4' (by omega)]
      · simpa [Memory.read_cons, e] using h a

/-- A write leaves every other address as it was, whatever the form of the memory. -/
theorem Memory.read_write_other (m : Memory) (b : Byte) (h : a' ≠ a) : (m.write a b).read a' = m.read a' := by
  induction m with
  | nil => by_cases hb : b = 0#8 <;> simp [Memory.write, hb, Memory.read_cons, h]
  | cons p rest ih =>
    obtain ⟨k, c⟩ := p
    unfold Memory.write
    split
    · split
      · rfl
      · rw [Memory.read_cons, if_neg h]
    · split
      · rename_i hk
        subst hk
        split <;> simp [Memory.read_cons, h]
      · simp [Memory.read_cons, ih]

/-- A run of writes leaves every address outside it as it was. -/
theorem Memory.read_writeBytes_other (m : Memory) (h : ¬(a ≤ a' ∧ a' < a + bs.length)) :
    (m.writeBytes a bs).read a' = m.read a' := by
  induction bs generalizing m a with
  | nil => rfl
  | cons b bs ih =>
    simp only [List.length_cons] at h
    rw [Memory.writeBytes, ih _ (by omega), Memory.read_write_other m b (by omega)]

/-! The range check. -/

/-- The check passes exactly when the access has no byte or ends at 4095 or below. -/
theorem outOfRange?_eq_none {a n : Nat} : outOfRange? a n = none ↔ n = 0 ∨ a + n ≤ 4096 := by
  unfold outOfRange? lastAddress
  split <;> simp <;> omega

/-- A bad range reports the lowest address of the access above 4095. -/
theorem outOfRange?_eq_some {a n bad : Nat} :
    outOfRange? a n = some bad ↔ 0 < n ∧ 4096 < a + n ∧ bad = max a 4096 := by
  unfold outOfRange? lastAddress
  split <;> simp <;> omega

/-- All a transfer can do: halt with nothing transferred, or be done. -/
theorem State.transfer_cases (s : State) (a n : Nat) (done : State) :
    (0 < n ∧ 4096 < a + n ∧
      s.transfer a n done = s.halt .memoryOutOfRange (BitVec.ofNat 16 (max a 4096))) ∨
    ((n = 0 ∨ a + n ≤ 4096) ∧ s.transfer a n done = done) := by
  unfold State.transfer
  split
  · rename_i h
    obtain ⟨h1, h2, rfl⟩ := outOfRange?_eq_some.1 h
    exact .inl ⟨h1, h2, rfl⟩
  · rename_i h
    exact .inr ⟨outOfRange?_eq_none.1 h, rfl⟩

theorem State.transfer_good {s : State} {a n : Nat} (h : n = 0 ∨ a + n ≤ 4096) (done : State) :
    s.transfer a n done = done := by
  rw [State.transfer, outOfRange?_eq_none.2 h]

theorem State.transfer_bad {s : State} {a n : Nat} (hn : 0 < n) (h : 4096 < a + n) (done : State) :
    s.transfer a n done = s.halt .memoryOutOfRange (BitVec.ofNat 16 (max a 4096)) := by
  rw [State.transfer, outOfRange?_eq_some.2 ⟨hn, h, rfl⟩]

end Sys2Proof.Machine
end

