-- ==== Sys2Proof/Laws/Ops.lean ====
section
/-! SUPPORT. Registers, stack, framebuffer, keys: what each shared operation does, said once. -/

namespace Sys2Proof.Machine

variable (s : State)

/-! Registers. -/

/-- A register reads as last written, and no register aliases another (10_state.md R20). -/
theorem State.reg_setReg (x : Reg) (b : Byte) (z : Reg) :
    (s.setReg x b).reg z = if z = x then b else s.reg z := by
  simp only [State.reg, State.setReg_v, Vector.getElem_set, Fin.ext_iff, eq_comm]

theorem State.reg_setFlag (f : Bool) (z : Reg) :
    (s.setFlag f).reg z = if z = vf then (if f then 1#8 else 0#8) else s.reg z := s.reg_setReg vf _ z

/-- The flag wins over the result (41_alu.md R153). -/
theorem State.reg_setResultAndFlag (x : Reg) (b : Byte) (f : Bool) (z : Reg) :
    (s.setResultAndFlag x b f).reg z =
      if z = vf then (if f then 1#8 else 0#8) else if z = x then b else s.reg z := by
  rw [State.setResultAndFlag, State.reg_setFlag, State.reg_setReg]

theorem State.reg_loaded (x : Reg) (a : Nat) (z : Reg) :
    (s.setRegs (s.loadedRegs x a)).reg z = if z ≤ x then s.mem.read (a + z.val) else s.reg z := by
  simp only [State.reg, State.setRegs_v, State.loadedRegs, Vector.getElem_ofFn]
  rfl

theorem State.regsUpTo_length (x : Reg) : (s.regsUpTo x).length = x.val + 1 := by
  simp [State.regsUpTo]

theorem State.regsUpTo_get (x : Reg) (k : Nat) (h : k < (s.regsUpTo x).length) :
    (s.regsUpTo x)[k] = s.reg ⟨k, by rw [State.regsUpTo_length] at h; omega⟩ := by
  simp [State.regsUpTo, State.reg]

/-! The stack. -/

/-- All a push can do (10_state.md R26). -/
theorem State.push?_cases (a : Word) :
    (s.sp.val = 16 ∧ s.push? a = none) ∨
    (∃ h : s.sp.val < 16, s.push? a =
      some { s with stack := s.stack.set s.sp.val a, sp := ⟨s.sp.val + 1, by omega⟩ }) := by
  unfold State.push?
  split
  · rename_i h
    exact .inr ⟨h, rfl⟩
  · exact .inl ⟨by omega, rfl⟩

/-- All a pop can do (10_state.md R26). -/
theorem State.pop?_cases :
    (s.sp.val = 0 ∧ s.pop? = none) ∨
    (∃ h : 0 < s.sp.val, s.pop? =
      some (s.stack[s.sp.val - 1], { s with sp := ⟨s.sp.val - 1, by omega⟩ })) := by
  unfold State.pop?
  split
  · rename_i h
    exact .inr ⟨h, rfl⟩
  · exact .inl ⟨by omega, rfl⟩

/-! The framebuffer. -/

/-- A toggle turns its pixel and no other. -/
theorem Framebuffer.pixel_toggle (fb : Framebuffer) (r r' : Fin 32) (c c' : Fin 64) :
    (Framebuffer.toggle fb r c).pixel r' c' =
      if r' = r ∧ c' = c then !(Framebuffer.pixel fb r c) else Framebuffer.pixel fb r' c' := by
  unfold Framebuffer.toggle Framebuffer.pixel
  by_cases hr : r = r'
  · subst hr
    simp only [Vector.getElem_set_self, Vector.getElem_set]
    by_cases hc : c = c'
    · subst hc; simp
    · simp [show c.val ≠ c'.val from fun h => hc (Fin.ext h), Ne.symm hc]
  · simp [show r.val ≠ r'.val from fun h => hr (Fin.ext h), Ne.symm hr]

theorem Framebuffer.ext {fb fb' : Framebuffer}
    (h : ∀ r c, Framebuffer.pixel fb r c = Framebuffer.pixel fb' r c) : fb = fb' := by
  apply Vector.ext
  intro r hr
  apply Vector.ext
  intro c hc
  exact h ⟨r, hr⟩ ⟨c, hc⟩

@[simp] theorem pixel_blank (r : Fin 32) (c : Fin 64) : Framebuffer.pixel blankFramebuffer r c = false := by
  simp [Framebuffer.pixel, blankFramebuffer]

/-- A pixel after a blit is turned once for each time the list names it. -/
theorem pixel_blit (ps : List (Fin 32 × Fin 64)) (fb : Framebuffer) (f : Bool) (r : Fin 32) (c : Fin 64) :
    Framebuffer.pixel (blit ps fb f).1 r c = (Framebuffer.pixel fb r c ^^ decide (ps.count (r, c) % 2 = 1)) := by
  induction ps generalizing fb f with
  | nil => simp [blit]
  | cons p ps ih =>
    obtain ⟨r', c'⟩ := p
    rw [blit, ih, Framebuffer.pixel_toggle, List.count_cons]
    by_cases h : (r', c') = (r, c)
    · obtain ⟨rfl, rfl⟩ := Prod.mk.inj h
      have : (decide ((ps.count (r', c') + 1) % 2 = 1)) = !(decide (ps.count (r', c') % 2 = 1)) := by
        rcases Nat.mod_two_eq_zero_or_one (ps.count (r', c')) with e | e <;> simp [Nat.add_mod, e]
      simp [this]
    · have h' : ¬(r = r' ∧ c = c') := fun e => h (by rw [e.1, e.2])
      simp [h, h']

/-- The flag of a blit is 1 when it was before, or when some pixel is set at its turn (43_display.md R171). -/
theorem flag_blit (ps : List (Fin 32 × Fin 64)) (fb : Framebuffer) (f : Bool) (h : ps.Nodup) :
    (blit ps fb f).2 = true ↔ f = true ∨ ∃ p ∈ ps, Framebuffer.pixel fb p.1 p.2 = true := by
  induction ps generalizing fb f with
  | nil => simp [blit]
  | cons p ps ih =>
    obtain ⟨r, c⟩ := p
    obtain ⟨hn, hd⟩ := List.nodup_cons.1 h
    rw [blit, ih _ _ hd, Bool.or_eq_true]
    have hsame : ∀ p ∈ ps, (Framebuffer.toggle fb r c).pixel p.1 p.2 = Framebuffer.pixel fb p.1 p.2 := by
      intro p hp
      rw [Framebuffer.pixel_toggle, if_neg]
      rintro ⟨rfl, rfl⟩
      exact hn hp
    constructor
    · rintro ((hf | hf) | ⟨p, hp, e⟩)
      · exact .inl hf
      · exact .inr ⟨(r, c), List.mem_cons_self, hf⟩
      · exact .inr ⟨p, List.mem_cons_of_mem _ hp, by rw [← hsame p hp, e]⟩
    · rintro (hf | ⟨p, hp, e⟩)
      · exact .inl (.inl hf)
      · rcases List.mem_cons.1 hp with rfl | hp
        · exact .inl (.inr e)
        · exact .inr ⟨p, hp, by rw [hsame p hp, e]⟩

/-- The pixels under the sprite's 1 bits (43_display.md R171, R173). -/
theorem State.mem_spritePixels {s : State} {x0 y0 : Byte} {n : Nat} {r : Fin 32} {c : Fin 64} :
    (r, c) ∈ s.spritePixels x0 y0 n ↔
      ∃ k < n, ∃ j < 8, spriteBit (s.mem.read (s.ea k)) j = true ∧ r = pixelRow y0 k ∧ c = pixelColumn x0 j := by
  simp only [State.spritePixels, rowPixels, List.mem_flatMap, List.mem_map, List.mem_filter, List.mem_range,
    Prod.mk.injEq, and_assoc]
  constructor
  · rintro ⟨k, hk, j, hj, hb, rfl, rfl⟩; exact ⟨k, hk, j, hj, hb, rfl, rfl⟩
  · rintro ⟨k, hk, j, hj, hb, rfl, rfl⟩; exact ⟨k, hk, j, hj, hb, rfl, rfl⟩

/-- No pixel occurs twice in one draw: sprites are 8 wide and at most 15 high (43_display.md R173). -/
theorem State.nodup_spritePixels (s : State) (x0 y0 : Byte) {n : Nat} (hn : n ≤ 32) :
    (s.spritePixels x0 y0 n).Nodup := by
  unfold State.spritePixels
  rw [List.nodup_flatMap]
  constructor
  · intro k _
    refine (List.nodup_range.filter _).map_on fun j hj j' hj' e => ?_
    have h1 := List.mem_range.1 (List.mem_of_mem_filter hj)
    have h2 := List.mem_range.1 (List.mem_of_mem_filter hj')
    have := congrArg Fin.val (Prod.mk.inj e).2
    simp only [pixelColumn, Fin.ofNat] at this
    omega
  · refine List.Nodup.pairwise_of_forall_ne List.nodup_range fun k hk k' hk' hne => ?_
    have h1 := List.mem_range.1 hk
    have h2 := List.mem_range.1 hk'
    rw [Function.onFun, List.disjoint_left]
    rintro ⟨r, c⟩ h3 h4
    simp only [rowPixels, List.mem_map, Prod.mk.injEq] at h3 h4
    obtain ⟨_, _, e3, _⟩ := h3
    obtain ⟨_, _, e4, _⟩ := h4
    have := congrArg Fin.val (e3.trans e4.symm)
    simp only [pixelRow, Fin.ofNat] at this
    omega

/-! Timers and the display port. -/

/-- A timer falls by 1, with floor at zero (60_exceptions.md R212). -/
theorem countDown_toNat (b : Byte) : (countDown b).toNat = b.toNat - 1 := by
  unfold countDown
  split
  · rename_i h; simp [h]
  · rename_i h
    have : b.toNat ≠ 0 := fun e => h (BitVec.eq_of_toNat_eq (by simpa using e))
    bv_omega

/-- Bit 64 * r + c of the port is pixel (r, c) of the snapshot (60_exceptions.md R218). -/
theorem State.fbDataBit_eq (r : Fin 32) (c : Fin 64) (k : Fin 2048) (h : k.val = 64 * r.val + c.val) :
    s.fbDataBit k = Framebuffer.pixel s.fbData r c := by
  have hr : (⟨k.val / 64, by omega⟩ : Fin 32) = r := Fin.ext (by simp only; omega)
  have hc : (⟨k.val % 64, by omega⟩ : Fin 64) = c := Fin.ext (by simp only; omega)
  rw [State.fbDataBit, hr, hc]

/-! Keys. -/

/-- The lowest key pressed, when there is one (44_keys_timers.md R183). -/
theorem lowestKey?_eq_some {keys : BitVec 16} {k : Nat} :
    lowestKey? keys = some k ↔ k < 16 ∧ keys.getLsbD k = true ∧ ∀ j < k, keys.getLsbD j = false := by
  unfold lowestKey?
  rw [List.find?_range_eq_some]
  simp only [List.mem_range, Bool.not_eq_true']
  constructor
  · rintro ⟨h1, h2, h3⟩; exact ⟨h2, h1, h3⟩
  · rintro ⟨h1, h2, h3⟩; exact ⟨h2, h1, h3⟩

theorem lowestKey?_eq_none {keys : BitVec 16} : lowestKey? keys = none ↔ keys = 0#16 := by
  unfold lowestKey?
  rw [List.find?_range_eq_none]
  constructor
  · intro h
    apply BitVec.eq_of_getLsbD_eq
    intro i hi
    simpa using h i hi
  · rintro rfl i _
    simp

end Sys2Proof.Machine
end

