-- ==== Sys2Proof/Laws/Exec.lean ====
section
/-! SUPPORT. What the meanings that branch can do, said once, the operations under them left folded: the transfers, the
sprite draw, the call, the return and the key wait. -/

namespace Sys2Proof.Machine

variable (s : State)

/-- All `SYS` can do (40_flow.md R120). -/
theorem exec_sys_cases (nnn : BitVec 12) :
    (s.params.sysPolicy = .fault ∧ exec (.sys nnn) s = .next (s.halt .sysUnsupported (addressOf nnn))) ∨
    (s.params.sysPolicy = .ignore ∧ exec (.sys nnn) s = .next s) ∨
    (s.params.sysPolicy = .jump ∧ exec (.sys nnn) s = .next (s.setPc (addressOf nnn))) := by
  simp only [exec, execSys]
  cases s.params.sysPolicy <;> simp

/-- All `RET` can do (40_flow.md R121). -/
theorem exec_ret_cases :
    (s.sp.val = 0 ∧ exec .ret s = .next (s.halt .stackUnderflow s.pc0)) ∨
    (∃ h : 0 < s.sp.val, exec .ret s =
      .next { s with sp := ⟨s.sp.val - 1, by omega⟩, pc := s.stack[s.sp.val - 1] }) := by
  rcases s.pop?_cases with ⟨h, e⟩ | ⟨h, e⟩
  · exact .inl ⟨h, by simp only [exec, execRet, e]⟩
  · exact .inr ⟨h, by simp only [exec, execRet, e]; rfl⟩

/-- All `CALL` can do (40_flow.md R123). -/
theorem exec_call_cases (nnn : BitVec 12) :
    (s.sp.val = 16 ∧ exec (.call nnn) s = .next (s.halt .stackOverflow s.pc0)) ∨
    (∃ h : s.sp.val < 16, exec (.call nnn) s = .next { s with
      stack := s.stack.set s.sp.val s.pc, sp := ⟨s.sp.val + 1, by omega⟩, pc := addressOf nnn }) := by
  rcases s.push?_cases s.pc with ⟨h, e⟩ | ⟨h, e⟩
  · exact .inl ⟨h, by simp only [exec, execCall, e]⟩
  · exact .inr ⟨h, by simp only [exec, execCall, e]; rfl⟩

/-- All `LD Vx, K` can do (44_keys_timers.md R183). -/
theorem exec_ldVxKey_cases (x : Reg) :
    (s.keys = 0#16 ∧ exec (.ldVxKey x) s = .next (s.setPc s.pc0)) ∨
    (∃ k < 16, s.keys.getLsbD k = true ∧ (∀ j < k, s.keys.getLsbD j = false) ∧
      exec (.ldVxKey x) s = .next (s.setReg x (BitVec.ofNat 8 k))) := by
  cases h : lowestKey? s.keys with
  | none => exact .inl ⟨lowestKey?_eq_none.1 h, by simp only [exec, execLdVxKey, h]⟩
  | some k =>
    obtain ⟨h1, h2, h3⟩ := lowestKey?_eq_some.1 h
    exact .inr ⟨k, h1, h2, h3, by simp only [exec, execLdVxKey, h]⟩

/-- All `LD B, Vx` can do (42_index_memory.md R163). -/
theorem exec_ldBcd_cases (x : Reg) :
    (4096 < s.ea 0 + 3 ∧
      exec (.ldBcd x) s = .next (s.halt .memoryOutOfRange (BitVec.ofNat 16 (max (s.ea 0) 4096)))) ∨
    (s.ea 0 + 3 ≤ 4096 ∧
      exec (.ldBcd x) s = .next (s.setMem (s.mem.writeBytes (s.ea 0) (decimalDigits (s.reg x))))) := by
  simp only [exec, execLdBcd]
  rcases s.transfer_cases (s.ea 0) 3 (s.setMem (s.mem.writeBytes (s.ea 0) (decimalDigits (s.reg x)))) with
    ⟨-, h, e⟩ | ⟨h, e⟩
  · exact .inl ⟨h, by rw [e]⟩
  · exact .inr ⟨by omega, by rw [e]⟩

/-- All `LD [I], Vx` can do (42_index_memory.md R164). -/
theorem exec_ldMemVx_cases (x : Reg) :
    (4096 < s.ea 0 + (x.val + 1) ∧
      exec (.ldMemVx x) s = .next (s.halt .memoryOutOfRange (BitVec.ofNat 16 (max (s.ea 0) 4096)))) ∨
    (s.ea 0 + (x.val + 1) ≤ 4096 ∧
      exec (.ldMemVx x) s = .next (s.setMem (s.mem.writeBytes (s.ea 0) (s.regsUpTo x)))) := by
  simp only [exec, execLdMemVx]
  rcases s.transfer_cases (s.ea 0) (x.val + 1) (s.setMem (s.mem.writeBytes (s.ea 0) (s.regsUpTo x))) with
    ⟨-, h, e⟩ | ⟨h, e⟩
  · exact .inl ⟨h, by rw [e]⟩
  · exact .inr ⟨by omega, by rw [e]⟩

/-- All `LD Vx, [I]` can do (42_index_memory.md R165). -/
theorem exec_ldVxMem_cases (x : Reg) :
    (4096 < s.ea 0 + (x.val + 1) ∧
      exec (.ldVxMem x) s = .next (s.halt .memoryOutOfRange (BitVec.ofNat 16 (max (s.ea 0) 4096)))) ∨
    (s.ea 0 + (x.val + 1) ≤ 4096 ∧ exec (.ldVxMem x) s = .next (s.setRegs (s.loadedRegs x (s.ea 0)))) := by
  simp only [exec, execLdVxMem]
  rcases s.transfer_cases (s.ea 0) (x.val + 1) (s.setRegs (s.loadedRegs x (s.ea 0))) with ⟨-, h, e⟩ | ⟨h, e⟩
  · exact .inl ⟨h, by rw [e]⟩
  · exact .inr ⟨by omega, by rw [e]⟩

/-- All `DRW` can do: the halt, or some framebuffer fb and flag f, which are those of the blit (43_display.md R171). -/
theorem exec_drw_cases (x y : Reg) (n : Fin 16) :
    (0 < n.val ∧ 4096 < s.ea 0 + n.val ∧
      exec (.drw x y n) s = .next (s.halt .memoryOutOfRange (BitVec.ofNat 16 (max (s.ea 0) 4096)))) ∨
    ((n.val = 0 ∨ s.ea 0 + n.val ≤ 4096) ∧ ∃ fb f,
      blit (s.spritePixels (s.reg x) (s.reg y) n.val) s.fb false = (fb, f) ∧
      exec (.drw x y n) s = .next ((s.setFb fb).setFlag f)) := by
  simp only [exec, execDrw]
  generalize blit (s.spritePixels (s.reg x) (s.reg y) n.val) s.fb false = p
  obtain ⟨fb, f⟩ := p
  rcases s.transfer_cases (s.ea 0) n.val ((s.setFb fb).setFlag f) with ⟨h0, h, e⟩ | ⟨h, e⟩
  · exact .inl ⟨h0, h, by rw [e]⟩
  · exact .inr ⟨h, fb, f, rfl, by rw [e]⟩

/-- Every instruction answers a next state: none faults, none is refused. -/
theorem exec_answers (i : Instr) : ∃ t, exec i s = .next t := by
  cases i with
  | sys nnn => rcases exec_sys_cases s nnn with ⟨-, e⟩ | ⟨-, e⟩ | ⟨-, e⟩ <;> exact ⟨_, e⟩
  | ret => rcases exec_ret_cases s with ⟨_, e⟩ | ⟨_, e⟩ <;> exact ⟨_, e⟩
  | call nnn => rcases exec_call_cases s nnn with ⟨_, e⟩ | ⟨_, e⟩ <;> exact ⟨_, e⟩
  | _ => exact ⟨_, rfl⟩

end Sys2Proof.Machine
end

