-- ==== Sys2Proof/Laws/PerInstr.lean ====
section
/-! SUPPORT. Facts of an instruction as syntax, one lemma per constructor. Family SelectedByItsRow: the word of an
instruction satisfies a row of the opcode map (30_encoding.md R98), and the operands that row takes from the word's fields
(R92) give the instruction back. -/

namespace Sys2Proof.Laws.SelectedByItsRow

/-- Some row of the opcode map selects the instruction's word and builds the instruction from its fields. -/
def Statement (i : Instr) : Prop :=
  ∃ k : Fin 35, (opcodeRows[k.val]'k.isLt).selects (encode i) = true ∧
    (opcodeRows[k.val]'k.isLt).build (fieldsOf (encode i)) = i

variable (nnn : BitVec 12) (x y : Reg) (kk : Byte)

/-- Format NNN. -/
theorem of_formatNnn {i : Instr} (k : Fin 35) (c : BitVec 4) (f : BitVec 12 → Instr)
    (hr : opcodeRows[k.val]'k.isLt = ⟨formatNnn c 0#12, 0xF000#16, fun g => f g.nnn⟩)
    (hi : encode i = formatNnn c nnn) (hf : f nnn = i) : Statement i := by
  refine ⟨k, ?_, ?_⟩
  · rw [hr, hi]; simp [Row.selects, formatNnn_and_F000]
  · rw [hr, hi]; simp only [fieldsOf, fieldNnn_formatNnn, hf]

/-- Format XKK. -/
theorem of_formatXkk {i : Instr} (k : Fin 35) (c : BitVec 4) (f : Reg → Byte → Instr)
    (hr : opcodeRows[k.val]'k.isLt = ⟨formatXkk c 0 0#8, 0xF000#16, fun g => f g.x g.kk⟩)
    (hi : encode i = formatXkk c x kk) (hf : f x kk = i) : Statement i := by
  refine ⟨k, ?_, ?_⟩
  · rw [hr, hi]; simp [Row.selects, formatXkk_and_F000]
  · rw [hr, hi]; simp only [fieldsOf, fieldX_formatXkk, fieldKk_formatXkk, hf]

/-- Format XY. -/
theorem of_formatXy {i : Instr} (k : Fin 35) (c n : BitVec 4) (f : Reg → Reg → Instr)
    (hr : opcodeRows[k.val]'k.isLt = ⟨formatXyn c 0 0 n, 0xF00F#16, fun g => f g.x g.y⟩)
    (hi : encode i = formatXyn c x y n) (hf : f x y = i) : Statement i := by
  refine ⟨k, ?_, ?_⟩
  · rw [hr, hi]; simp [Row.selects, formatXyn_and_F00F]
  · rw [hr, hi]; simp only [fieldsOf, fieldX_formatXyn, fieldY_formatXyn, hf]

/-- Format X. -/
theorem of_formatX {i : Instr} (k : Fin 35) (c : BitVec 4) (f : Reg → Instr)
    (hr : opcodeRows[k.val]'k.isLt = ⟨formatXkk c 0 kk, 0xF0FF#16, fun g => f g.x⟩)
    (hi : encode i = formatXkk c x kk) (hf : f x = i) : Statement i := by
  refine ⟨k, ?_, ?_⟩
  · rw [hr, hi]; simp [Row.selects, formatXkk_and_F0FF]
  · rw [hr, hi]; simp only [fieldsOf, fieldX_formatXkk, hf]

theorem cls : Statement .cls := ⟨0, rfl, rfl⟩
theorem ret : Statement .ret := ⟨1, rfl, rfl⟩
theorem sys : Statement (.sys nnn) := of_formatNnn nnn 2 0x0#4 .sys rfl rfl rfl
theorem jp : Statement (.jp nnn) := of_formatNnn nnn 3 0x1#4 .jp rfl rfl rfl
theorem call : Statement (.call nnn) := of_formatNnn nnn 4 0x2#4 .call rfl rfl rfl
theorem seImm : Statement (.seImm x kk) := of_formatXkk x kk 5 0x3#4 .seImm rfl rfl rfl
theorem sneImm : Statement (.sneImm x kk) := of_formatXkk x kk 6 0x4#4 .sneImm rfl rfl rfl
theorem seReg : Statement (.seReg x y) := of_formatXy x y 7 0x5#4 0x0#4 .seReg rfl rfl rfl
theorem ldImm : Statement (.ldImm x kk) := of_formatXkk x kk 8 0x6#4 .ldImm rfl rfl rfl
theorem addImm : Statement (.addImm x kk) := of_formatXkk x kk 9 0x7#4 .addImm rfl rfl rfl
theorem ldReg : Statement (.ldReg x y) := of_formatXy x y 10 0x8#4 0x0#4 .ldReg rfl rfl rfl
theorem orReg : Statement (.orReg x y) := of_formatXy x y 11 0x8#4 0x1#4 .orReg rfl rfl rfl
theorem andReg : Statement (.andReg x y) := of_formatXy x y 12 0x8#4 0x2#4 .andReg rfl rfl rfl
theorem xorReg : Statement (.xorReg x y) := of_formatXy x y 13 0x8#4 0x3#4 .xorReg rfl rfl rfl
theorem addReg : Statement (.addReg x y) := of_formatXy x y 14 0x8#4 0x4#4 .addReg rfl rfl rfl
theorem sub : Statement (.sub x y) := of_formatXy x y 15 0x8#4 0x5#4 .sub rfl rfl rfl
theorem shr : Statement (.shr x y) := of_formatXy x y 16 0x8#4 0x6#4 .shr rfl rfl rfl
theorem subn : Statement (.subn x y) := of_formatXy x y 17 0x8#4 0x7#4 .subn rfl rfl rfl
theorem shl : Statement (.shl x y) := of_formatXy x y 18 0x8#4 0xE#4 .shl rfl rfl rfl
theorem sneReg : Statement (.sneReg x y) := of_formatXy x y 19 0x9#4 0x0#4 .sneReg rfl rfl rfl
theorem ldI : Statement (.ldI nnn) := of_formatNnn nnn 20 0xA#4 .ldI rfl rfl rfl
theorem jpV0 : Statement (.jpV0 nnn) := of_formatNnn nnn 21 0xB#4 .jpV0 rfl rfl rfl
theorem rnd : Statement (.rnd x kk) := of_formatXkk x kk 22 0xC#4 .rnd rfl rfl rfl

theorem drw (n : Fin 16) : Statement (.drw x y n) := by
  refine ⟨23, ?_, ?_⟩
  · have : opcodeRows[(23 : Fin 35).val]'(23 : Fin 35).isLt = ⟨formatXkk 0xD#4 0 0#8, 0xF000#16,
        fun g => .drw g.x g.y g.n⟩ := rfl
    rw [this]; simp [Row.selects, encode, formatXyn_and_F000]
  · change Instr.drw (fieldX (formatXyn _ x y (digit n))) (fieldY (formatXyn _ x y (digit n)))
      (fieldN (formatXyn _ x y (digit n))) = _
    rw [fieldX_formatXyn, fieldY_formatXyn, fieldN_formatXyn, digit_toFin]

theorem skp : Statement (.skp x) := of_formatX x 0x9E#8 24 0xE#4 .skp rfl rfl rfl
theorem sknp : Statement (.sknp x) := of_formatX x 0xA1#8 25 0xE#4 .sknp rfl rfl rfl
theorem ldVxDt : Statement (.ldVxDt x) := of_formatX x 0x07#8 26 0xF#4 .ldVxDt rfl rfl rfl
theorem ldVxKey : Statement (.ldVxKey x) := of_formatX x 0x0A#8 27 0xF#4 .ldVxKey rfl rfl rfl
theorem ldDtVx : Statement (.ldDtVx x) := of_formatX x 0x15#8 28 0xF#4 .ldDtVx rfl rfl rfl
theorem ldStVx : Statement (.ldStVx x) := of_formatX x 0x18#8 29 0xF#4 .ldStVx rfl rfl rfl
theorem addI : Statement (.addI x) := of_formatX x 0x1E#8 30 0xF#4 .addI rfl rfl rfl
theorem ldFont : Statement (.ldFont x) := of_formatX x 0x29#8 31 0xF#4 .ldFont rfl rfl rfl
theorem ldBcd : Statement (.ldBcd x) := of_formatX x 0x33#8 32 0xF#4 .ldBcd rfl rfl rfl
theorem ldMemVx : Statement (.ldMemVx x) := of_formatX x 0x55#8 33 0xF#4 .ldMemVx rfl rfl rfl
theorem ldVxMem : Statement (.ldVxMem x) := of_formatX x 0x65#8 34 0xF#4 .ldVxMem rfl rfl rfl

end Sys2Proof.Laws.SelectedByItsRow
end

