-- ==== Sys2Proof/Laws/Step.lean ====
section
/-! SUPPORT. What the instruction step, a scheduler iteration and a step can do, said once (30_encoding.md R90,
60_exceptions.md R213, R214). -/

namespace Sys2Proof.Machine

variable {s t : State}

/-- All an instruction step can do: the fetch fault, the unrecognized word, or the decoded instruction. -/
theorem State.instructionStep_cases (s : State) :
    (4094 < s.pc.toNat ∧
      s.instructionStep = .next (s.halt .memoryOutOfRange (BitVec.ofNat 16 (max s.pc.toNat 4096)))) ∨
    (s.pc.toNat ≤ 4094 ∧ ∃ u, decode s.fetchedWord = .unrecognized u ∧
      s.instructionStep = .next (s.advancePc.halt .unrecognizedInstruction u)) ∨
    (s.pc.toNat ≤ 4094 ∧ ∃ i, decode s.fetchedWord = .instr i ∧
      s.instructionStep = s.advancePc.runInstr i s.fetchedWord) := by
  unfold State.instructionStep
  split
  · rename_i h
    obtain ⟨-, h2, rfl⟩ := outOfRange?_eq_some.1 h
    exact .inl ⟨by omega, rfl⟩
  · rename_i h
    have h2 := outOfRange?_eq_none.1 h
    cases hd : decode s.fetchedWord with
    | instr i => exact .inr (.inr ⟨by omega, i, rfl, by simp only [State.runWord, hd]⟩)
    | unrecognized u => exact .inr (.inl ⟨by omega, u, rfl, by simp only [State.runWord, hd]⟩)

/-- Running an instruction answers a next state exactly when its effect does. -/
theorem State.runInstr_eq_next {i : Instr} {w : Word} :
    s.runInstr i w = .next t ↔ ∃ u, exec i s = .next u ∧ t = u.retireUnlessHalted w := by
  unfold State.runInstr
  cases exec i s with
  | next u => simp [eq_comm]
  | fault e => cases e
  | refused e => simp

/-- The retire pulse changes the two retire outputs and nothing else (60_exceptions.md R221). -/
theorem State.retireUnlessHalted_cases (s : State) (w : Word) :
    (s.run = .halted ∧ s.retireUnlessHalted w = s) ∨
    (s.run ≠ .halted ∧ s.retireUnlessHalted w = { s with retire := true, retireWord := w }) := by
  unfold State.retireUnlessHalted
  split
  · exact .inl ⟨‹_›, rfl⟩
  · exact .inr ⟨‹_›, rfl⟩

/-- All one edge of the clocked form can do before the timer's half (60_exceptions.md R214). -/
theorem State.instructionEdge_eq_next :
    s.instructionEdge = .next t ↔
      (s.cntInstr = 0 ∧ ∃ u, s.instructionStep = .next u ∧ t = { u with cntInstr := s.params.pInstr - 1 }) ∨
      (s.cntInstr ≠ 0 ∧ t = { s with cntInstr := s.cntInstr - 1 }) := by
  unfold State.instructionEdge
  by_cases h : s.cntInstr = 0
  · simp only [h, if_true, countEdge, ne_eq, not_true_eq_false, false_and, or_false, true_and]
    cases s.instructionStep with
    | next u => simp [eq_comm]
    | fault e => cases e
    | refused e => simp
  · simp [h, countEdge, eq_comm]

/-- All one iteration of the running scheduler can do without stop (60_exceptions.md R213, R214). -/
theorem State.fireTicks_eq_next :
    s.fireTicks = .next t ↔
      (s.params.form = .interleaved ∧ s.env.now.tick = .instruction ∧ s.instructionStep = .next t) ∨
      (s.params.form = .interleaved ∧ s.env.now.tick = .timer ∧ t = s.timerStep) ∨
      (s.params.form = .clocked ∧ ∃ u, s.instructionEdge = .next u ∧ t = u.timerEdge) := by
  unfold State.fireTicks
  cases s.params.form with
  | interleaved => cases s.env.now.tick <;> simp [eq_comm]
  | clocked =>
    cases s.instructionEdge with
    | next u => simp [eq_comm]
    | fault e => cases e
    | refused e => simp

/-- All an iteration can do, by run state (10_state.md R30). -/
theorem State.iterate_eq_next :
    s.iterate = .next t ↔
      (s.run = .booting ∧ t = s.bootStep) ∨ (s.run = .halted ∧ t = s) ∨
      (s.run = .running ∧ s.env.now.stop = true ∧ t = s.halt .stop 0#16) ∨
      (s.run = .running ∧ s.env.now.stop = false ∧ s.fireTicks = .next t) := by
  unfold State.iterate State.runStep
  cases s.run <;> cases s.env.now.stop <;> simp [eq_comm]

/-- All a step can do: the reset, or an iteration with the pulses low; then the next sample of the inputs. -/
theorem step_eq_next :
    step s = .next t ↔
      (s.env.now.rst = true ∧ t = (State.powerOn s.params s.env).nextSample) ∨
      (s.env.now.rst = false ∧ ∃ u, s.lowerPulses.iterate = .next u ∧ t = u.nextSample) := by
  unfold step
  cases s.env.now.rst with
  | true => simp [eq_comm]
  | false =>
    cases s.lowerPulses.iterate with
    | next u => simp [eq_comm]
    | fault e => cases e
    | refused e => simp

/-- All a delivered ROM byte can do (10_state.md R43, 70_reset_and_hazards.md R242). -/
theorem State.loadRomByte_cases (s : State) (b : Byte) :
    (s.romCnt.val = 3584 ∧ s.loadRomByte b = s.halt .romTooLarge 3584#16) ∨
    (∃ h : s.romCnt.val < 3584, s.loadRomByte b = { s with
      mem := s.mem.write (loadAddress + s.romCnt.val) b, romCnt := ⟨s.romCnt.val + 1, by omega⟩ }) := by
  unfold State.loadRomByte
  split
  · exact .inr ⟨‹_›, rfl⟩
  · exact .inl ⟨by omega, rfl⟩

/-- All a step in `Booting` can do (10_state.md R43, 60_exceptions.md R205, 70_reset_and_hazards.md R241, R242). -/
theorem State.bootStep_cases (s : State) (hb : s.run = .booting) :
    (s.env.now.stop = true ∧ s.bootStep = s.halt .stop 0#16) ∨
    (s.env.now.stop = false ∧ s.env.now.romValid = true ∧ s.romCnt.val = 3584 ∧
      s.bootStep = s.halt .romTooLarge 3584#16) ∨
    (s.env.now.stop = false ∧ s.takeRomByte.run = .booting ∧
      (s.env.now.romValid = true → s.romCnt.val < 3584) ∧
      s.bootStep = if s.env.now.bootGo then s.takeRomByte.enterRunning else s.takeRomByte) := by
  unfold State.bootStep
  cases hst : s.env.now.stop with
  | true => exact .inl ⟨rfl, by simp⟩
  | false =>
    refine .inr ?_
    cases hv : s.env.now.romValid with
    | false =>
      have ht : s.takeRomByte = s := by simp [State.takeRomByte, hv]
      exact .inr ⟨rfl, by rw [ht, hb], by simp, by simp [ht, hb]⟩
    | true =>
      by_cases hc : s.romCnt.val < 3584
      · have ht : s.takeRomByte.run = .booting := by simp [State.takeRomByte, State.loadRomByte, hv, hc, hb]
        exact .inr ⟨rfl, ht, fun _ => hc, by simp [ht]⟩
      · have ht : s.takeRomByte = s.halt .romTooLarge 3584#16 := by
          simp [State.takeRomByte, State.loadRomByte, hv, hc]
        exact .inl ⟨rfl, rfl, by omega, by simp [ht]⟩

/-- The timer's half of an edge acts only while the core runs (60_exceptions.md R214). -/
theorem State.timerEdge_cases (s : State) :
    (s.run ≠ .running ∧ s.timerEdge = s) ∨
    (s.run = .running ∧ s.cntTimer = 0 ∧ s.timerEdge = { s.timerStep with cntTimer := s.params.pTimer - 1 }) ∨
    (s.run = .running ∧ s.cntTimer ≠ 0 ∧ s.timerEdge = { s with cntTimer := s.cntTimer - 1 }) := by
  unfold State.timerEdge
  by_cases hr : s.run = .running
  · by_cases hc : s.cntTimer = 0
    · exact .inr (.inl ⟨hr, hc, by simp [hr, hc, countEdge]⟩)
    · exact .inr (.inr ⟨hr, hc, by simp [hr, hc, countEdge]⟩)
  · exact .inl ⟨hr, by simp [hr]⟩

end Sys2Proof.Machine
end

