-- ==== Sys2Proof/Tests/Slice0.lean ====
section
/-! SUPPORT. Tests: ill-formed terms, words written out from 30_encoding.md R98, one-step vectors of 95_test_vectors.md (their
ids stand in the comments), and for each statement with hypotheses a state and operands that meet them. -/

namespace Sys2Proof.Tests

open Sys2Proof.Machine

/-! WellFormed: its one check is the priority of 30_encoding.md R95. -/

theorem test_wellFormed_refuses_sys_0E0 : WellFormed (.sys 0x0E0#12) = false := by decide
theorem test_wellFormed_refuses_sys_0EE : WellFormed (.sys 0x0EE#12) = false := by decide
theorem test_wellFormed_takes_sys_0E1 : WellFormed (.sys 0x0E1#12) = true := by decide
theorem test_illFormed_sys_decodes_elsewhere : decode (encode (.sys 0x0E0#12)) = .instr .cls := by decide

/-! Decoding: for every constructor a word written out from the match column of 30_encoding.md R98 with its operand digits
put in by hand. -/

theorem test_decode_cls : decode 0x00E0#16 = .instr .cls := by decide
theorem test_decode_ret : decode 0x00EE#16 = .instr .ret := by decide
theorem test_decode_sys : decode 0x0123#16 = .instr (.sys 0x123#12) := by decide
theorem test_decode_jp : decode 0x1ABC#16 = .instr (.jp 0xABC#12) := by decide
theorem test_decode_call : decode 0x23FF#16 = .instr (.call 0x3FF#12) := by decide
theorem test_decode_seImm : decode 0x3142#16 = .instr (.seImm 1 0x42#8) := by decide
theorem test_decode_sneImm : decode 0x4F43#16 = .instr (.sneImm 15 0x43#8) := by decide
theorem test_decode_seReg : decode 0x5120#16 = .instr (.seReg 1 2) := by decide
theorem test_decode_ldImm : decode 0x63AB#16 = .instr (.ldImm 3 0xAB#8) := by decide
theorem test_decode_addImm : decode 0x71FE#16 = .instr (.addImm 1 0xFE#8) := by decide
theorem test_decode_ldReg : decode 0x8AB0#16 = .instr (.ldReg 10 11) := by decide
theorem test_decode_orReg : decode 0x8AB1#16 = .instr (.orReg 10 11) := by decide
theorem test_decode_andReg : decode 0x8AB2#16 = .instr (.andReg 10 11) := by decide
theorem test_decode_xorReg : decode 0x8AB3#16 = .instr (.xorReg 10 11) := by decide
theorem test_decode_addReg : decode 0x8AB4#16 = .instr (.addReg 10 11) := by decide
theorem test_decode_sub : decode 0x8AB5#16 = .instr (.sub 10 11) := by decide
theorem test_decode_shr : decode 0x8AB6#16 = .instr (.shr 10 11) := by decide
theorem test_decode_subn : decode 0x8AB7#16 = .instr (.subn 10 11) := by decide
theorem test_decode_shl : decode 0x8ABE#16 = .instr (.shl 10 11) := by decide
theorem test_decode_sneReg : decode 0x9120#16 = .instr (.sneReg 1 2) := by decide
theorem test_decode_ldI : decode 0xAFFF#16 = .instr (.ldI 0xFFF#12) := by decide
theorem test_decode_jpV0 : decode 0xB300#16 = .instr (.jpV0 0x300#12) := by decide
theorem test_decode_rnd : decode 0xC10F#16 = .instr (.rnd 1 0x0F#8) := by decide
theorem test_decode_drw : decode 0xD12F#16 = .instr (.drw 1 2 15) := by decide
theorem test_decode_skp : decode 0xE19E#16 = .instr (.skp 1) := by decide
theorem test_decode_sknp : decode 0xE1A1#16 = .instr (.sknp 1) := by decide
theorem test_decode_ldVxDt : decode 0xF407#16 = .instr (.ldVxDt 4) := by decide
theorem test_decode_ldVxKey : decode 0xF30A#16 = .instr (.ldVxKey 3) := by decide
theorem test_decode_ldDtVx : decode 0xF215#16 = .instr (.ldDtVx 2) := by decide
theorem test_decode_ldStVx : decode 0xF218#16 = .instr (.ldStVx 2) := by decide
theorem test_decode_addI : decode 0xF11E#16 = .instr (.addI 1) := by decide
theorem test_decode_ldFont : decode 0xF229#16 = .instr (.ldFont 2) := by decide
theorem test_decode_ldBcd : decode 0xF333#16 = .instr (.ldBcd 3) := by decide
theorem test_decode_ldMemVx : decode 0xFF55#16 = .instr (.ldMemVx 15) := by decide
theorem test_decode_ldVxMem : decode 0xF265#16 = .instr (.ldVxMem 2) := by decide

/-- vX1 to vX10: words no row selects. -/
theorem test_decode_unrecognized :
    ([0x5121#16, 0x8008#16, 0x800F#16, 0x9001#16, 0xE09F#16, 0xE000#16, 0xF000#16, 0xF0FF#16, 0xF066#16,
      0xFF56#16].all fun w => decide (decode w = .unrecognized w)) = true := by decide

/-- vE1, vE3, vE4. -/
theorem test_fields : fieldsOf 0xD12F#16 = ⟨0x12F#12, 15, 1, 2, 0x2F#8⟩ ∧
    fieldsOf 0xFFFF#16 = ⟨0xFFF#12, 15, 15, 15, 0xFF#8⟩ ∧ fieldsOf 0x8AB4#16 = ⟨0xAB4#12, 4, 10, 11, 0xB4#8⟩ := by decide

theorem test_decodeTableWord : decodeTableWord 16 0x8124 = some (.addReg 1 2) ∧ decodeTableWord 16 0x5121 = none := by
  decide
theorem test_decodeBytes_truncated : decodeBytes [0x12#8] = .truncated := by decide

/-! Single steps. The state is that of 95_test_vectors.md part 2, the word placed at 0x200. -/

/-- The running core at 0x200, all registers 0, no key pressed, the schedule giving instruction steps. -/
def booted : State :=
  { State.powerOn defaultParams { now := quietInputs, script := [], held := true, drawn := 0 } with
    run := .running, pc := 0x200#16 }

/-- `booted` with these registers. -/
def withRegs (l : List (Reg × Byte)) : State := l.foldl (fun s p => s.setReg p.1 p.2) booted

/-- The state with these keys held. -/
def holding (keys : BitVec 16) (s : State) : State := s.withKeys keys

/-- The state with these bytes from a on. -/
def State.holdingBytes (s : State) (a : Nat) (bs : List Byte) : State := s.setMem (s.mem.writeBytes a bs)

/-- What f sees of the next state. -/
def seen {α : Type} (r : Result) (f : State → α) : Option α :=
  match r with
  | .next t => some (f t)
  | .fault _ => none
  | .refused _ => none

/-- One step of the word w at the state's pc. -/
def after {α : Type} (s : State) (w : Nat) (f : State → α) : Option α := seen (step (s.withFetchWord 16 w)) f

/-- vF1. -/
theorem test_jp : after booted 0x1ABC (·.pc) = some 0xABC#16 := by decide
/-- vF3. -/
theorem test_call : after booted 0x23FF (fun t => (t.pc, t.sp.val, t.stack[0])) = some (0x3FF#16, 1, 0x202#16) := by decide
/-- vF6. -/
theorem test_call_full :
    after { booted with sp := 16 } 0x2300 (fun t => (t.pc, t.run, t.haltCause, t.haltInfo, t.retire)) =
      some (0x202#16, .halted, .stackOverflow, 0x200#16, false) := by decide
/-- vF8. -/
theorem test_ret :
    after { booted with sp := 16, stack := booted.stack.set 15 0x456#16 } 0x00EE (fun t => (t.pc, t.sp.val, t.stack[15])) =
      some (0x456#16, 15, 0x456#16) := by decide
/-- vF7. -/
theorem test_ret_empty : after booted 0x00EE (fun t => (t.pc, t.haltCause, t.haltInfo)) =
    some (0x202#16, .stackUnderflow, 0x200#16) := by decide
/-- vF10. -/
theorem test_jpV0 : after (withRegs [(0, 0xFF#8)]) 0xBFFF (·.pc) = some 0x10FE#16 := by decide
/-- vF11, vF12. -/
theorem test_seImm : after (withRegs [(1, 0x42#8)]) 0x3142 (·.pc) = some 0x204#16 ∧
    after (withRegs [(1, 0x42#8)]) 0x3143 (·.pc) = some 0x202#16 := by decide
/-- vF13, vF14. -/
theorem test_sneImm : after (withRegs [(1, 0x42#8)]) 0x4142 (·.pc) = some 0x202#16 ∧
    after (withRegs [(1, 0x42#8)]) 0x4143 (·.pc) = some 0x204#16 := by decide
/-- vF16, vF17. -/
theorem test_seReg : after (withRegs [(1, 7#8), (2, 8#8)]) 0x5120 (·.pc) = some 0x202#16 ∧
    after (withRegs [(3, 9#8)]) 0x5330 (·.pc) = some 0x204#16 := by decide
/-- vF18, vF20. -/
theorem test_sneReg : after (withRegs [(1, 7#8), (2, 8#8)]) 0x9120 (·.pc) = some 0x204#16 ∧
    after (withRegs [(3, 9#8)]) 0x9330 (·.pc) = some 0x202#16 := by decide
/-- vF24. -/
theorem test_sys_fault : after booted 0x0123 (fun t => (t.pc, t.haltCause, t.haltInfo)) =
    some (0x202#16, .sysUnsupported, 0x0123#16) := by decide
/-- vF24i, vF24j. -/
theorem test_sys_ignore_jump :
    after { booted with params := { defaultParams with sysPolicy := .ignore } } 0x0123 (fun t => (t.pc, t.run)) =
      some (0x202#16, .running) ∧
    after { booted with params := { defaultParams with sysPolicy := .jump } } 0x0123 (fun t => (t.pc, t.run)) =
      some (0x123#16, .running) := by decide

/-- vA2, vA1. -/
theorem test_ldImm : after booted 0x6F01 (fun t => (t.reg 15, t.pc)) = some (1#8, 0x202#16) ∧
    after booted 0x63AB (·.reg 3) = some 0xAB#8 := by decide
/-- vA3. -/
theorem test_addImm : after (withRegs [(1, 0xFF#8), (15, 7#8)]) 0x7101 (fun t => (t.reg 1, t.reg 15)) =
    some (0#8, 7#8) := by decide
/-- vA6. -/
theorem test_ldReg : after (withRegs [(1, 1#8), (2, 0x99#8)]) 0x8120 (fun t => (t.reg 1, t.reg 2)) =
    some (0x99#8, 0x99#8) := by decide
/-- vA7. -/
theorem test_orReg : after (withRegs [(1, 0xF0#8), (2, 0x0F#8), (15, 1#8)]) 0x8121 (fun t => (t.reg 1, t.reg 15)) =
    some (0xFF#8, 1#8) := by decide
/-- vA8. -/
theorem test_andReg : after (withRegs [(1, 0xF0#8), (2, 0x3C#8), (15, 1#8)]) 0x8122 (fun t => (t.reg 1, t.reg 15)) =
    some (0x30#8, 1#8) := by decide
/-- vA9. -/
theorem test_xorReg : after (withRegs [(1, 0xFF#8), (2, 0x0F#8), (15, 1#8)]) 0x8123 (fun t => (t.reg 1, t.reg 15)) =
    some (0xF0#8, 1#8) := by decide
/-- vA13. -/
theorem test_addReg_255 : after (withRegs [(1, 255#8), (15, 1#8)]) 0x8124 (fun t => (t.reg 1, t.reg 15)) =
    some (255#8, 0#8) := by decide
/-- vA17. -/
theorem test_addReg_into_vf : after (withRegs [(15, 200#8), (1, 100#8)]) 0x8F14 (fun t => (t.reg 1, t.reg 15)) =
    some (100#8, 1#8) := by decide
/-- vA21. -/
theorem test_sub : after (withRegs [(1, 4#8), (2, 7#8), (15, 1#8)]) 0x8125 (fun t => (t.reg 1, t.reg 15)) =
    some (253#8, 0#8) := by decide
/-- vA22. -/
theorem test_sub_equal : after (withRegs [(1, 5#8), (2, 5#8), (15, 1#8)]) 0x8125 (fun t => (t.reg 1, t.reg 15)) =
    some (0#8, 0#8) := by decide
/-- vA27. -/
theorem test_subn : after (withRegs [(1, 3#8), (2, 5#8)]) 0x8127 (fun t => (t.reg 1, t.reg 15)) =
    some (2#8, 1#8) := by decide
/-- vA30. -/
theorem test_shr : after (withRegs [(1, 0x81#8), (2, 0xFF#8)]) 0x8126 (fun t => (t.reg 1, t.reg 15, t.reg 2)) =
    some (0x40#8, 1#8, 0xFF#8) := by decide
/-- vA35. -/
theorem test_shr_vf : after (withRegs [(15, 3#8)]) 0x8F06 (·.reg 15) = some 1#8 := by decide
/-- vA37. -/
theorem test_shl : after (withRegs [(1, 0x81#8)]) 0x812E (fun t => (t.reg 1, t.reg 15)) = some (2#8, 1#8) := by decide
/-- 41_alu.md R151 by hand: 0xB7 and 0x0F is 0x07. -/
theorem test_rnd : after (booted.withRnd 0xB7#8) 0xC10F (fun t => (t.reg 1, t.reg 15)) = some (0x07#8, 0#8) := by decide

/-- vI1. -/
theorem test_ldI : after booted 0xAFFF (·.i) = some 0xFFF#16 := by decide
/-- vI3, vI2. -/
theorem test_addI : after { withRegs [(0, 1#8)] with i := 0xFFFF#16 } 0xF01E (·.i) = some 0#16 ∧
    after { withRegs [(0, 1#8), (15, 1#8)] with i := 0xFFF#16 } 0xF01E (fun t => (t.i, t.reg 15)) =
      some (0x1000#16, 1#8) := by decide
/-- vI8. -/
theorem test_ldFont : after (withRegs [(2, 255#8)]) 0xF229 (·.i) = some 0x4FB#16 := by decide
/-- vI14. -/
theorem test_ldBcd : after { withRegs [(3, 123#8)] with i := 4093#16 } 0xF333
    (fun t => (t.mem.read 4093, t.mem.read 4094, t.mem.read 4095, t.i)) = some (1#8, 2#8, 3#8, 4093#16) := by decide
/-- vI15. -/
theorem test_ldBcd_outside : after { withRegs [(3, 123#8)] with i := 4094#16 } 0xF333
    (fun t => (t.haltCause, t.haltInfo, t.mem.read 4094, t.mem.read 4095)) =
      some (.memoryOutOfRange, 0x1000#16, 0#8, 0#8) := by decide
/-- vI17. -/
theorem test_ldMemVx : after { withRegs [(0, 1#8), (1, 2#8), (2, 3#8), (3, 4#8)] with i := 0x300#16 } 0xF255
    (fun t => (t.mem.read 0x300, t.mem.read 0x301, t.mem.read 0x302, t.mem.read 0x303, t.i)) =
      some (1#8, 2#8, 3#8, 0#8, 0x300#16) := by decide
/-- vI22. -/
theorem test_ldMemVx_outside : after { withRegs [(0, 0x77#8)] with i := 4096#16 } 0xF055
    (fun t => (t.haltCause, t.haltInfo)) = some (.memoryOutOfRange, 0x1000#16) := by decide
/-- vI23. -/
theorem test_ldVxMem : after { State.holdingBytes booted 0x300 [0x11#8, 0x22#8, 0x33#8, 0x44#8] with i := 0x300#16 } 0xF265
    (fun t => (t.reg 0, t.reg 1, t.reg 2, t.reg 3, t.i)) = some (0x11#8, 0x22#8, 0x33#8, 0#8, 0x300#16) := by decide
/-- vI26. -/
theorem test_ldVxMem_outside : after { withRegs [(0, 5#8)] with i := 4095#16 } 0xF165
    (fun t => (t.haltCause, t.haltInfo, t.reg 0)) = some (.memoryOutOfRange, 0x1000#16, 5#8) := by decide

/-- vD0. -/
theorem test_cls : after { withRegs [(15, 1#8)] with fb := Framebuffer.toggle booted.fb 31 63 } 0x00E0
    (fun t => (t.fb.pixel 31 63, t.reg 15)) = some (false, 1#8) := by decide
/-- vD6: the sprite clears two set pixels. -/
theorem test_drw_collision :
    after { State.holdingBytes (withRegs [(0, 8#8), (1, 5#8)]) 0x303 [0xFF#8] with
      i := 0x303#16, fb := Framebuffer.toggle booted.fb 5 10 } 0xD011
      (fun t => (t.fb.pixel 5 8, t.fb.pixel 5 10, t.fb.pixel 5 15, t.fb.pixel 5 16, t.reg 15)) =
      some (true, false, true, false, 1#8) := by decide
/-- vD8 and vD11: the wrap over the edge, and `VF` read before it is written. -/
theorem test_drw_wrap :
    after { State.holdingBytes (withRegs [(0, 60#8), (1, 31#8)]) 0x303 [0xFF#8, 0x80#8] with i := 0x303#16 } 0xD012
      (fun t => (t.fb.pixel 31 63, t.fb.pixel 31 3, t.fb.pixel 31 4, t.fb.pixel 0 60, t.reg 15)) =
      some (true, true, false, true, 0#8) ∧
    after { State.holdingBytes (withRegs [(15, 7#8)]) 0x300 [0x80#8] with i := 0x300#16 } 0xDF01
      (fun t => (t.fb.pixel 0 7, t.reg 15)) = some (true, 0#8) := by decide

/-- vK1, vK4. -/
theorem test_skp : after (holding 0x0020#16 (withRegs [(1, 5#8)])) 0xE19E (·.pc) = some 0x204#16 ∧
    after (holding 0x0020#16 (withRegs [(1, 0x15#8)])) 0xE19E (·.pc) = some 0x202#16 := by decide
/-- vK5, vK7. -/
theorem test_sknp : after (holding 0x0020#16 (withRegs [(1, 5#8)])) 0xE1A1 (·.pc) = some 0x202#16 ∧
    after (holding 0x0020#16 (withRegs [(1, 0x15#8)])) 0xE1A1 (·.pc) = some 0x204#16 := by decide
/-- vK13. -/
theorem test_ldVxDt : after { booted with dt := 0x2A#8 } 0xF407 (fun t => (t.reg 4, t.dt)) = some (0x2A#8, 0x2A#8) := by
  decide
/-- vK8. -/
theorem test_ldVxKey_waits : after (withRegs [(3, 9#8)]) 0xF30A (fun t => (t.pc, t.reg 3, t.retire)) =
    some (0x200#16, 9#8, true) := by decide
/-- vK10. -/
theorem test_ldVxKey_lowest : after (holding 0x8088#16 (withRegs [(3, 9#8)])) 0xF30A (fun t => (t.pc, t.reg 3)) =
    some (0x202#16, 3#8) := by decide
/-- vK12. -/
theorem test_ldDtVx : after (withRegs [(2, 3#8)]) 0xF215 (fun t => (t.dt, t.st)) = some (3#8, 0#8) := by decide
/-- vK14. -/
theorem test_ldStVx : after (withRegs [(2, 0xFF#8)]) 0xF218 (fun t => (t.dt, t.st)) = some (0#8, 255#8) := by decide

/-- `s` with these input levels at its next step. -/
def withInputs (s : State) (i : Inputs) : State := { s with env := { s.env with now := i } }

/-- vK15, vK16. -/
theorem test_timer : seen (step (withInputs { booted with dt := 1#8, st := 255#8 } { quietInputs with tick := .timer }))
    (fun t => (t.dt, t.st, t.fbValid)) = some (0#8, 254#8, true) := by decide
/-- vK17. -/
theorem test_timer_floor : seen (step (withInputs booted { quietInputs with tick := .timer })) (fun t => (t.dt, t.st)) =
    some (0#8, 0#8) := by decide
/-- vX8. -/
theorem test_unrecognized_halts : after booted 0xF0FF (fun t => (t.pc, t.haltCause, t.haltInfo, t.retire)) =
    some (0x202#16, .unrecognizedInstruction, 0xF0FF#16, false) := by decide
/-- vF23. -/
theorem test_fetch_past_the_end : seen (step { booted with pc := 0xFFF#16 }) (fun t => (t.pc, t.haltCause, t.haltInfo)) =
    some (0xFFF#16, .memoryOutOfRange, 0x1000#16) := by decide
/-- vB6. -/
theorem test_stop : seen (step (withInputs booted { quietInputs with stop := true })) (fun t => (t.pc, t.haltCause)) =
    some (0x200#16, .stop) := by decide
/-- The environment that delivers the byte 0xAB. -/
def romEnv : Env :=
  { now := { quietInputs with romValid := true, romByte := 0xAB#8 }, script := [], held := true, drawn := 0 }
/-- The core in `Booting` with n bytes delivered, one more at the port. -/
def booting (n : Fin 3585) : State := { State.powerOn defaultParams romEnv with romCnt := n }
/-- vB5: a byte goes to 512 plus the count. -/
theorem test_rom_byte : seen (step (booting 2)) (fun t => (t.mem.read 514, t.romCnt.val, t.run)) =
    some (0xAB#8, 3, .booting) := by decide
/-- vB4. -/
theorem test_rom_too_large : seen (step (booting 3584)) (fun t => (t.run, t.haltCause, t.haltInfo)) =
    some (.halted, .romTooLarge, 3584#16) := by decide
/-- vT8: on an edge with both steps due the instruction step comes first. -/
theorem test_clocked_edge :
    after { withRegs [(2, 3#8)] with params := { defaultParams with form := .clocked } } 0xF215
      (fun t => (t.dt, t.cntInstr, t.cntTimer)) = some (2#8, 5, 49) := by decide
/-- The first step after reset runs the word placed (log entry 13). -/
theorem test_first_word_after_reset : after State.reset 0x1ABC (fun t => (t.pc, t.run, t.mem.read 0, t.retireWord)) =
    some (0xABC#16, .running, 0xF0#8, 0x1ABC#16) := by decide

/-! The memory's form. -/

theorem test_reset_memory_wf : State.reset.mem.wf = true := by decide
theorem test_write_zero_removes : Memory.write (Memory.write [] 7 1#8) 7 0#8 = [] := by decide

/-! Witnesses: for each statement of Certificates/Slice0/Obligations.lean with hypotheses, concrete values that meet them, clause
by clause, at the ends of the ranges. -/

/-- The state a meaning starts in: pc0 = 0x200, pc = 0x202. -/
def started : State := { booted with pc := 0x202#16 }

/-- `booted` with the word w at 0x200. -/
def holdingWord (w : Nat) : State := booted.withFetchWord 16 w

/-- `booted` with the parameters of the clocked form. -/
def clockedCore : State := { booted with params := { defaultParams with form := .clocked } }

theorem witness_DecodeInvertsEncode : WellFormed (.sys 0x0ED#12) = true ∧ WellFormed (.sys 0x0EF#12) = true := by decide
theorem witness_EncodeInvertsDecode : decode 0x00E1#16 = .instr (.sys 0x0E1#12) ∧
    decode 0xFF65#16 = .instr (.ldVxMem 15) := by decide
theorem witness_DispatchPriority : (opcodeRows[(2 : Fin 35).val]'(2 : Fin 35).isLt).selects 0x00E1#16 = true ∧
    (∀ j : Fin 35, j < 2 → (opcodeRows[j.val]'j.isLt).selects 0x00E1#16 = false) ∧
    ∀ k : Fin 35, (opcodeRows[k.val]'k.isLt).selects 0x5121#16 = false := by decide

theorem witness_SysFollowsPolicy :
    (0x0000#16 &&& 0xF000#16 = 0x0000#16 ∧ (0x0000#16 : Word) ≠ 0x00E0#16 ∧ (0x0000#16 : Word) ≠ 0x00EE#16) ∧
    (0x0FFF#16 &&& 0xF000#16 = 0x0000#16 ∧ (0x0FFF#16 : Word) ≠ 0x00E0#16 ∧ (0x0FFF#16 : Word) ≠ 0x00EE#16) ∧
    started.params.sysPolicy = .fault ∧
    { started with params := { defaultParams with sysPolicy := .ignore } }.params.sysPolicy = .ignore ∧
    { started with params := { defaultParams with sysPolicy := .jump } }.params.sysPolicy = .jump := by decide
theorem witness_ReturnPops : started.sp.val = 0 ∧ 0 < { started with sp := 1 }.sp.val ∧
    0 < { started with sp := 16 }.sp.val := by decide
theorem witness_CallPushes : 0x2FFF#16 &&& 0xF000#16 = 0x2000#16 ∧ { started with sp := 16 }.sp.val = 16 ∧
    { started with sp := 15 }.sp.val < 16 ∧ started.sp.val < 16 := by decide
theorem witness_ReturnGoesAfterTheCall : started.sp.val < 16 ∧ ∃ t, exec (.call 0x3FF#12) started = .next t ∧
    { t with pc := 0x401#16 }.stack = t.stack ∧ { t with pc := 0x401#16 }.sp = t.sp := by
  exact ⟨by decide, _, rfl, rfl, rfl⟩
theorem witness_JumpSetsPc : 0x1000#16 &&& 0xF000#16 = 0x1000#16 ∧ 0x1FFF#16 &&& 0xF000#16 = 0x1000#16 := by decide
theorem witness_IndexedJumpSetsPc : 0xB000#16 &&& 0xF000#16 = 0xB000#16 ∧ 0xBFFF#16 &&& 0xF000#16 = 0xB000#16 := by decide
theorem witness_SkipsOnImmediate : 0x3FFF#16 &&& 0xF000#16 = 0x3000#16 ∧ 0x4000#16 &&& 0xF000#16 = 0x4000#16 := by decide
theorem witness_SkipsOnRegister : 0x5FF0#16 &&& 0xF00F#16 = 0x5000#16 ∧ 0x9000#16 &&& 0xF00F#16 = 0x9000#16 := by decide
theorem witness_ImmediateLoad : 0x6FFF#16 &&& 0xF000#16 = 0x6000#16 ∧ (0 : Reg) ≠ 15 := by decide
theorem witness_ImmediateAdd : 0x7000#16 &&& 0xF000#16 = 0x7000#16 ∧ (15 : Reg) ≠ 0 := by decide
theorem witness_RegisterCopy : 0x8FF0#16 &&& 0xF00F#16 = 0x8000#16 ∧ (14 : Reg) ≠ 15 := by decide
theorem witness_BitwiseLogic : 0x8001#16 &&& 0xF00F#16 = 0x8001#16 ∧
    0x8FF2#16 &&& 0xF00F#16 = 0x8002#16 ∧ 0x8003#16 &&& 0xF00F#16 = 0x8003#16 ∧ (14 : Reg) ≠ 15 := by decide
theorem witness_AddWithCarry : 0x8FF4#16 &&& 0xF00F#16 = 0x8004#16 ∧ (14 : Reg) ≠ 15 ∧ (0 : Reg) ≠ 14 ∧ (0 : Reg) ≠ 15 := by
  decide
theorem witness_SubtractWithNotBorrow : 0x8FF5#16 &&& 0xF00F#16 = 0x8005#16 ∧ 0x8007#16 &&& 0xF00F#16 = 0x8007#16 ∧
    (14 : Reg) ≠ 15 ∧ (0 : Reg) ≠ 14 := by decide
theorem witness_ShiftsInPlace : 0x8FF6#16 &&& 0xF00F#16 = 0x8006#16 ∧ 0x800E#16 &&& 0xF00F#16 = 0x800E#16 ∧
    (14 : Reg) ≠ 15 ∧ (0 : Reg) ≠ 14 := by decide
theorem witness_RandomAndImmediate : 0xCFFF#16 &&& 0xF000#16 = 0xC000#16 ∧ (0 : Reg) ≠ 15 := by decide
theorem witness_IndexLoad : 0xA000#16 &&& 0xF000#16 = 0xA000#16 ∧ 0xAFFF#16 &&& 0xF000#16 = 0xA000#16 := by decide
theorem witness_IndexAddAndFont : 0xFF1E#16 &&& 0xF0FF#16 = 0xF01E#16 ∧
    0xF029#16 &&& 0xF0FF#16 = 0xF029#16 := by decide
theorem witness_DecimalDigits : 0xF333#16 &&& 0xF0FF#16 = 0xF033#16 ∧ 4095 < { started with i := 4094#16 }.i.toNat + 2 ∧
    { started with i := 4093#16 }.mem.wf = true ∧ { started with i := 4093#16 }.i.toNat + 2 ≤ 4095 := by decide
theorem witness_BlockStore : 0xFF55#16 &&& 0xF0FF#16 = 0xF055#16 ∧
    4095 < { started with i := 4081#16 }.i.toNat + (15 : Reg).val ∧
    { started with i := 4080#16 }.mem.wf = true ∧ { started with i := 4080#16 }.i.toNat + (15 : Reg).val ≤ 4095 := by decide
theorem witness_BlockLoad : 0xF065#16 &&& 0xF0FF#16 = 0xF065#16 ∧
    4095 < { started with i := 4096#16 }.i.toNat + (0 : Reg).val ∧
    { started with i := 4095#16 }.i.toNat + (0 : Reg).val ≤ 4095 := by decide
theorem witness_TransfersCheckFirst : 0 < transferBytes (.drw 0 0 1) ∧
    4095 < { started with i := 4096#16 }.ea (transferBytes (.drw 0 0 1) - 1) ∧
    { started with i := 4095#16 }.ea (transferBytes (.drw 0 0 1) - 1) ≤ 4095 ∧
    { started with i := 4080#16 }.ea (transferBytes (.ldVxMem 15) - 1) ≤ 4095 := by decide
theorem witness_StoreSeenByFetch : { started with i := 0x202#16 }.mem.wf = true ∧
    { started with i := 0x202#16 }.i.toNat + (1 : Reg).val ≤ 4095 ∧
    ∃ t, exec (.ldMemVx 1) { started with i := 0x202#16 } = .next t ∧ (0 : Reg) < 1 ∧
      { started with mem := t.mem }.mem = t.mem ∧ { started with mem := t.mem }.pc.toNat = 0x202 + (0 : Reg).val ∧
      (1 : Reg).val = (0 : Reg).val + 1 :=
  ⟨by decide, by decide, _, rfl, by decide, rfl, rfl, rfl⟩
theorem witness_SpriteDraw : 0xDFFF#16 &&& 0xF000#16 = 0xD000#16 ∧
    (0 < (2 : Fin 16).val ∧ 4095 < { started with i := 4095#16 }.i.toNat + (2 : Fin 16).val - 1) ∧
    (0 : Fin 16).val = 0 ∧ { started with i := 4095#16 }.i.toNat + (1 : Fin 16).val - 1 ≤ 4095 := by decide
/-- The sprite 0x80 at 0x300 covers the pixel (0, 0) and not (0, 1), and its draw sets the one pixel. -/
theorem witness_SpriteDraw_pixels :
    ({ State.holdingBytes started 0x300 [0x80#8] with i := 0x300#16 }).spriteCovers 0#8 0#8 1 0 0 ∧
    seen (exec (.drw 0 0 1) { State.holdingBytes started 0x300 [0x80#8] with i := 0x300#16 })
      (fun t => (t.fb.pixel 0 0, t.fb.pixel 0 1, t.reg 15)) = some (true, false, 0#8) :=
  ⟨⟨0, by decide, 0, by decide, by decide, by decide, by decide⟩, by decide⟩
theorem witness_DoubleDrawRestores : (14 : Reg) ≠ 15 ∧ (0 : Reg) ≠ 15 ∧
    { started with i := 4095#16 }.i.toNat + (1 : Fin 16).val - 1 ≤ 4095 ∧
    ∃ t, exec (.drw 14 0 1) { started with i := 4095#16 } = .next t := by
  exact ⟨by decide, by decide, by decide, exec_answers _ _⟩
theorem witness_KeySkips : 0xE19E#16 &&& 0xF0FF#16 = 0xE09E#16 ∧ 0xE1A1#16 &&& 0xF0FF#16 = 0xE0A1#16 ∧
    (((holding 0x8000#16 (withRegs [(1, 15#8)])).reg 1).toNat = (15 : Fin 16).val ∧
      (holding 0x8000#16 (withRegs [(1, 15#8)])).env.now.keys.getLsbD (15 : Fin 16).val = true) ∧
    (((withRegs [(1, 15#8)]).reg 1).toNat = (15 : Fin 16).val ∧
      (withRegs [(1, 15#8)]).env.now.keys.getLsbD (15 : Fin 16).val = false) ∧
    15 < ((withRegs [(1, 16#8)]).reg 1).toNat := by decide
theorem witness_KeyWait : 0xF30A#16 &&& 0xF0FF#16 = 0xF00A#16 ∧
    (∀ k : Fin 16, started.env.now.keys.getLsbD k.val = false) ∧
    (holding 0x8000#16 started).env.now.keys.getLsbD (15 : Fin 16).val = true ∧
    ∀ j : Fin 16, j < 15 → (holding 0x8000#16 started).env.now.keys.getLsbD j.val = false := by decide
theorem witness_TimerAccess : 0xFF07#16 &&& 0xF0FF#16 = 0xF007#16 ∧ 0xF015#16 &&& 0xF0FF#16 = 0xF015#16 ∧
    0xF018#16 &&& 0xF0FF#16 = 0xF018#16 := by decide

theorem witness_RegisterFrame : (∃ t, exec (.addReg 1 2) started = .next t) ∧ writesReg (.addReg 1 2) 14 = false := by
  exact ⟨exec_answers _ _, by decide⟩
theorem witness_MemoryFrame : (∃ t, exec (.ldBcd 3) { started with i := 4093#16 } = .next t) ∧
    ¬({ started with i := 4093#16 }.ea 0 ≤ 4092 ∧
      4092 < { started with i := 4093#16 }.ea 0 + storedBytes (.ldBcd 3)) := by
  exact ⟨exec_answers _ _, by decide⟩
theorem witness_SpecialStateFrame : ∃ t, exec (.call 0x300#12) started = .next t := exec_answers _ _
theorem witness_SchedulerStateFrame : ∃ t, exec .ret started = .next t := exec_answers _ _
theorem witness_InputsReadOnlyByTheirInstructions :
    (∃ t, exec (.rnd 0 1#8) started = .next t) ∧ (∃ t, exec (.skp 0) started = .next t) ∧
    (∀ x, Instr.rnd 0 1#8 ≠ .skp x ∧ Instr.rnd 0 1#8 ≠ .sknp x ∧ Instr.rnd 0 1#8 ≠ .ldVxKey x) ∧
    (∀ x kk, Instr.skp 0 ≠ .rnd x kk) := by
  exact ⟨exec_answers _ _, exec_answers _ _, by simp, by simp⟩

theorem witness_FetchReadsWordOrHalts : { booted with pc := 4094#16 }.pc.toNat ≤ 4094 ∧
    { booted with pc := 4095#16 }.pc.toNat = 4095 ∧ 4096 ≤ { booted with pc := 4096#16 }.pc.toNat := by decide
theorem witness_UnrecognizedWordHalts : (holdingWord 0xF0FF).pc.toNat ≤ 4094 ∧
    ∀ r ∈ opcodeRows, (holdingWord 0xF0FF).fetchedWord &&& r.mask ≠ r.pat := by decide
theorem witness_StepRunsDecodedInstruction :
    (holdingWord 0x8124).env.now.rst = false ∧ (holdingWord 0x8124).run = .running ∧
    (holdingWord 0x8124).env.now.stop = false ∧ (holdingWord 0x8124).pc.toNat ≤ 4094 ∧
    decode (holdingWord 0x8124).fetchedWord = .instr (.addReg 1 2) ∧
    (holdingWord 0x8124).params.form = .interleaved ∧ (holdingWord 0x8124).env.now.tick = .instruction := by decide
theorem witness_StepRunsDecodedInstruction_clocked :
    (clockedCore.withFetchWord 16 0x00EE).params.form = .clocked ∧ (clockedCore.withFetchWord 16 0x00EE).cntInstr = 0 ∧
    decode (clockedCore.withFetchWord 16 0x00EE).fetchedWord = .instr .ret ∧
    seen (exec .ret started) (·.run) = some .halted := by decide
theorem witness_FaultsArePrecise : (holdingWord 0x00EE).run = .running ∧
    seen (holdingWord 0x00EE).instructionStep (·.run) = some .halted ∧
    seen { booted with pc := 4095#16 }.instructionStep (·.run) = some .halted := by decide

theorem witness_InvKeptByStep : booted.Inv ∧ seen (step booted) (·.run) = some .halted := by
  refine ⟨⟨by decide, by decide, fun _ => ⟨rfl, rfl⟩, fun h => (nomatch h), by decide, fun j hj => ?_, by decide,
    fun h => (nomatch h)⟩, by decide⟩
  exact absurd hj (Nat.not_lt_zero _)
theorem witness_ParametersFixed : seen (step booted) (·.haltCause) = some .sysUnsupported := by decide
theorem witness_ResetClearsAndIsTheOnlyWay : (withInputs booted { quietInputs with rst := true }).env.now.rst = true ∧
    booted.env.now.rst = false ∧ seen (step (booting 0)) (·.run) = some .booting ∧
    { booted with run := .halted }.run = .halted := by decide
theorem witness_HaltedIsTerminal : ({ booted with run := .halted }.run = .halted ∧
    { booted with run := .halted }.env.now.rst = false ∧ { booted with run := .halted }.retire = false ∧
    { booted with run := .halted }.fbValid = false) ∧
    seen (step { booted with run := .halted }) (·.run) = some .halted ∧
    seen (runSteps 0 { booted with run := .halted }) (·.run) = some .halted ∧
    seen (runSteps 1 (withInputs booted { quietInputs with stop := true })) (·.run) = some .halted := by decide
/-- The core in `Booting` with stop high while a byte and boot_go are presented. -/
def stoppedInBooting : State := withInputs (booting 0) { romEnv.now with stop := true, bootGo := true }
theorem witness_StopHalts : (withInputs booted { quietInputs with stop := true }).env.now.rst = false ∧
    (withInputs booted { quietInputs with stop := true }).env.now.stop = true ∧
    (withInputs booted { quietInputs with stop := true }).run = .running ∧
    (stoppedInBooting.env.now.rst = false ∧ stoppedInBooting.env.now.stop = true ∧ stoppedInBooting.run = .booting) ∧
    seen (step stoppedInBooting) (fun t => (t.haltCause, t.romCnt.val)) = some (.stop, 0) := by decide
theorem witness_TimerStepCountsAndPublishes :
    (withInputs booted { quietInputs with tick := .timer }).env.now.rst = false ∧
    (withInputs booted { quietInputs with tick := .timer }).run = .running ∧
    (withInputs booted { quietInputs with tick := .timer }).env.now.stop = false ∧
    (withInputs booted { quietInputs with tick := .timer }).params.form = .interleaved ∧
    (withInputs booted { quietInputs with tick := .timer }).env.now.tick = .timer ∧
    (2047 : Fin 2048).val = 64 * (31 : Fin 32).val + (63 : Fin 64).val := by decide
/-- An edge with the timer step alone due, one with both due, and one with both due whose instruction step halts. -/
theorem witness_TimerStepCountsAndPublishes_clocked :
    (clockedCore.params.form = .clocked ∧ { clockedCore with cntInstr := 5 }.cntTimer = 0 ∧
      { clockedCore with cntInstr := 5 }.cntInstr ≠ 0) ∧
    ((clockedCore.withFetchWord 16 0xF215).cntTimer = 0 ∧ (clockedCore.withFetchWord 16 0xF215).cntInstr = 0 ∧
      seen (State.instructionStep { clockedCore.withFetchWord 16 0xF215 with retire := false, fbValid := false }) (·.run) =
        some .running) ∧
    (clockedCore.cntTimer = 0 ∧ clockedCore.cntInstr = 0 ∧
      seen (State.instructionStep { clockedCore with retire := false, fbValid := false }) (·.run) = some .halted) := by decide
theorem witness_SnapshotIsACopy : seen (step booted) (·.fbValid) = some false ∧
    seen (step (withInputs booted { quietInputs with tick := .timer })) (·.fbValid) = some true := by decide

theorem witness_RomLoadPort : (booting 3583).mem.wf = true ∧ (booting 3583).env.now.rst = false ∧
    (booting 3583).run = .booting ∧ (booting 3583).env.now.stop = false ∧ (booting 3583).env.now.romValid = true ∧
    (booting 3583).env.now.bootGo = false ∧ (booting 3583).romCnt.val < 3584 ∧ booted.run ≠ .booting := by decide
theorem witness_OversizedRomRejected : (booting 3584).env.now.rst = false ∧ (booting 3584).run = .booting ∧
    (booting 3584).env.now.stop = false ∧ (booting 3584).env.now.romValid = true ∧ (booting 3584).romCnt.val = 3584 ∧
    (withInputs (booting 3584) { romEnv.now with bootGo := true }).env.now.bootGo = true ∧
    seen (step (withInputs (booting 3584) { romEnv.now with bootGo := true })) (·.haltCause) = some .romTooLarge := by decide
theorem witness_BootLoadsEveryRom : ([] : List Byte).length ≤ 3584 ∧ (List.replicate 3584 0#8).length ≤ 3584 :=
  ⟨Nat.zero_le _, Nat.le_of_eq List.length_replicate⟩
/-- vB5: the odd ROM 12 00 AB boots. -/
theorem test_boot_three_bytes :
    seen (runSteps 4 (State.powerOn defaultParams (bootEnv [0x12#8, 0x00#8, 0xAB#8])))
      (fun t => (t.run, t.pc, t.mem.read 0x200, t.mem.read 0x202, t.mem.read 0x203, t.mem.read 79)) =
      some (.running, 0x200#16, 0x12#8, 0xAB#8, 0#8, 0x80#8) := by decide

theorem witness_ClockedCounters : clockedCore.env.now.rst = false ∧ clockedCore.run = .running ∧
    clockedCore.env.now.stop = false ∧ clockedCore.params.form = .clocked ∧
    seen (step { clockedCore with cntInstr := 1 }) (·.run) = some .running ∧
    seen (step clockedCore) (·.run) = some .halted := by decide
theorem witness_ClockedPhase : { clockedCore with cntInstr := 5, cntTimer := 49 }.params.legal = true ∧
    { clockedCore with cntInstr := 5, cntTimer := 49 }.cntInstr = clockedCore.params.pInstr - 1 - 0 % clockedCore.params.pInstr ∧
    { clockedCore with cntInstr := 5, cntTimer := 49 }.cntTimer = clockedCore.params.pTimer - 1 - 0 % clockedCore.params.pTimer ∧
    seen (step { clockedCore with cntInstr := 5, cntTimer := 49 }) (·.run) = some .running := by decide
theorem witness_ClockedEdgeIsInterleavedSteps :
    (clockedCore.withFetchWord 16 0xF215).env.now.rst = false ∧ (clockedCore.withFetchWord 16 0xF215).run = .running ∧
    (clockedCore.withFetchWord 16 0xF215).env.now.stop = false ∧
    (clockedCore.withFetchWord 16 0xF215).params.form = .clocked ∧
    (clockedCore.withFetchWord 16 0xF215).dueTicks = [.instruction, .timer] ∧
    seen (step (clockedCore.withFetchWord 16 0xF215)) (·.run) = some .running := by decide

end Sys2Proof.Tests
end

section
/-! The fields of a word as the masks and shifts of 30_encoding.md R92. -/

namespace Sys2Proof

variable (w : Word)

/-- A field of `len` bits from bit `lo` is a shift and a mask. -/
theorem extractLsb'_toNat_eq_and (lo len : Nat) :
    (w.extractLsb' lo len).toNat = (w.toNat >>> lo) &&& (2 ^ len - 1) := by
  rw [BitVec.extractLsb'_toNat, Nat.and_two_pow_sub_one_eq_mod]

theorem fieldNnn_toNat : (fieldNnn w).toNat = w.toNat &&& 0x0FFF := extractLsb'_toNat_eq_and w 0 12

theorem fieldN_val : (fieldN w).val = w.toNat &&& 0x000F := extractLsb'_toNat_eq_and w 0 4

theorem fieldX_val : (fieldX w).val = (w.toNat >>> 8) &&& 0xF := extractLsb'_toNat_eq_and w 8 4

theorem fieldY_val : (fieldY w).val = (w.toNat >>> 4) &&& 0xF := extractLsb'_toNat_eq_and w 4 4

theorem fieldKk_toNat : (fieldKk w).toNat = w.toNat &&& 0xFF := extractLsb'_toNat_eq_and w 0 8

/-- A field of `hi + lo` bits is its upper `hi` bits over its lower `lo` bits: how the fields of a word overlap (R92). -/
theorem extractLsb'_toNat_split (start lo hi : Nat) :
    (w.extractLsb' start (lo + hi)).toNat =
      (w.extractLsb' (start + lo) hi).toNat * 2 ^ lo + (w.extractLsb' start lo).toNat := by
  simp only [BitVec.extractLsb'_toNat, Nat.shiftRight_add, Nat.shiftRight_eq_div_pow _ lo]
  rw [Nat.pow_add, Nat.mod_mul, Nat.mul_comm, Nat.add_comm]

theorem fieldNnn_toNat_eq_x_kk : (fieldNnn w).toNat = (fieldX w).val * 256 + (fieldKk w).toNat :=
  extractLsb'_toNat_split w 0 8 4

theorem fieldKk_toNat_eq_y_n : (fieldKk w).toNat = (fieldY w).val * 16 + (fieldN w).val :=
  extractLsb'_toNat_split w 0 4 4

end Sys2Proof
end

section
/-! The dispatcher's priority list (30_encoding.md R95, R97) as the first row of the opcode map that selects the word, and
when two rows have a word in common. -/

namespace Sys2Proof

variable {w : Word} {r q : Row}

/-- The dispatcher answers with the first row that selects the word, and without one that the word is unrecognized. -/
theorem dispatch_eq_find? (w : Word) (rows : List Row) :
    dispatch w rows = ((rows.find? (·.selects w)).map fun r => .instr (r.build (fieldsOf w))).getD (.unrecognized w) := by
  induction rows with
  | nil => rfl
  | cons q qs ih => cases hq : q.selects w <;> simp [dispatch, hq, ih]

theorem decode_of_first_row (k : Fin 35) (hk : (opcodeRows[k.val]'k.isLt).selects w = true)
    (hfirst : ∀ j : Fin 35, j < k → (opcodeRows[j.val]'j.isLt).selects w = false) :
    decode w = .instr ((opcodeRows[k.val]'k.isLt).build (fieldsOf w)) := by
  have hfind : opcodeRows.find? (·.selects w) = some (opcodeRows[k.val]'k.isLt) :=
    List.find?_eq_some_iff_getElem.2 ⟨hk, k.val, k.isLt, rfl, fun j hj =>
      congrArg not (hfirst ⟨j, hj.trans k.isLt⟩ hj)⟩
  rw [decode, dispatch_eq_find?, hfind]
  rfl

theorem decode_of_no_row_selects (h : ∀ r ∈ opcodeRows, r.selects w = false) : decode w = .unrecognized w := by
  have hfind : opcodeRows.find? (·.selects w) = none := List.find?_eq_none.2 fun r hr => by simp [h r hr]
  rw [decode, dispatch_eq_find?, hfind]
  rfl

@[simp] theorem Row.selects_eq_true_iff : r.selects w = true ↔ w &&& r.mask = r.pat := beq_iff_eq

/-- Where two patterns agree on the bits both masks cover, their union has the bits of the first under its mask. -/
theorem Row.selects_union (hr : r.pat &&& r.mask = r.pat) (h : r.pat &&& q.mask = q.pat &&& r.mask) :
    r.selects (r.pat ||| q.pat) = true := by
  have absorb : r.pat ||| (r.pat &&& q.mask) = r.pat := by
    ext i hi
    simp +contextual
  rw [Row.selects_eq_true_iff, BitVec.and_or_distrib_right, hr, ← h, absorb]

/-- Two rows whose patterns lie under their masks select a common word exactly when the patterns agree on the bits both
masks cover. -/
theorem Row.exists_common_word_iff (hr : r.pat &&& r.mask = r.pat) (hq : q.pat &&& q.mask = q.pat) :
    (∃ w, r.selects w = true ∧ q.selects w = true) ↔ r.pat &&& q.mask = q.pat &&& r.mask := by
  constructor
  · rintro ⟨w, hwr, hwq⟩
    rw [← Row.selects_eq_true_iff.1 hwr, ← Row.selects_eq_true_iff.1 hwq]
    ac_rfl
  · intro h
    exact ⟨r.pat ||| q.pat, Row.selects_union hr h, BitVec.or_comm r.pat q.pat ▸ Row.selects_union hq h.symm⟩

theorem pat_and_mask : ∀ k : Fin 35,
    (opcodeRows[k.val]'k.isLt).pat &&& (opcodeRows[k.val]'k.isLt).mask = (opcodeRows[k.val]'k.isLt).pat := by decide

theorem mask_exact_iff : ∀ k : Fin 35, (opcodeRows[k.val]'k.isLt).mask = 0xFFFF#16 ↔ k.val < 2 := by decide

/-- The patterns of two rows agree on the bits both masks cover exactly when the later row is row 3 (R95). -/
theorem patterns_agree_iff : ∀ j k : Fin 35, j < k →
    ((opcodeRows[j.val]'j.isLt).pat &&& (opcodeRows[k.val]'k.isLt).mask =
      (opcodeRows[k.val]'k.isLt).pat &&& (opcodeRows[j.val]'j.isLt).mask ↔ k.val = 2) := by decide

theorem rows_share_word_iff (j k : Fin 35) (hjk : j < k) :
    (∃ w, (opcodeRows[j.val]'j.isLt).selects w = true ∧ (opcodeRows[k.val]'k.isLt).selects w = true) ↔ k.val = 2 :=
  (Row.exists_common_word_iff (pat_and_mask j) (pat_and_mask k)).trans (patterns_agree_iff j k hjk)

end Sys2Proof
end

section
/-! The obligations of the encoding (30_encoding.md). -/

open Sys2Proof Sys2Proof.Machine

/-- Settles O4: the dispatcher's answer is that of the first row found, and the patterns and masks of the map say which
rows can have a word in common. -/
theorem dispatchPriority : Obligations.DispatchPriority := by
  refine ⟨fun w k => decode_of_first_row k, fun w h => decode_of_no_row_selects fun r hr => ?_, mask_exact_iff,
    rows_share_word_iff, rfl, rfl⟩
  obtain ⟨k, hk, rfl⟩ := List.getElem_of_mem hr
  exact h ⟨k, hk⟩

/-- Settles O3: each field is a run of bits of the word, and each overlap splits one run in two. -/
theorem fieldsOfAWord : Obligations.FieldsOfAWord := fun w =>
  ⟨fieldNnn_toNat w, fieldN_val w, fieldX_val w, fieldY_val w, fieldKk_toNat w, fieldNnn_toNat_eq_x_kk w,
    fieldKk_toNat_eq_y_n w⟩

/-- Settles O42: of the three things an instruction step can do, the fetch fault wants pc above 4094 and an instruction
wants a row that selects the word. -/
theorem unrecognizedWordHalts : Obligations.UnrecognizedWordHalts := by
  intro s hpc hno
  have hd : decode s.fetchedWord = .unrecognized s.fetchedWord :=
    decode_of_no_row_selects fun r hr =>
      Bool.eq_false_iff.2 (Row.selects_eq_true_iff.not.2 (hno r hr))
  rcases s.instructionStep_cases with ⟨hfar, -⟩ | ⟨-, u, hu, hstep⟩ | ⟨-, i, hi, -⟩
  · omega
  · obtain rfl : s.fetchedWord = u := Decoded.unrecognized.inj (hd.symm.trans hu)
    rw [hstep]
    rfl
  · rw [hd] at hi
    cases hi

end

section
/-! The rules of the flow instructions: the word that selects a row other than row 3, the address of a jump, and the skip
(30_encoding.md R95, 40_flow.md R122, R125 to R129). -/

namespace Sys2Proof

/-- Row 3 is the only row an earlier one can shadow (R95): a word that selects any other row decodes to that row's
instruction. -/
theorem decode_of_selects {w : Word} (k : Fin 35) (hk : k.val ≠ 2) (h : w &&& (opcodeRows[k.val]'k.isLt).mask =
    (opcodeRows[k.val]'k.isLt).pat) : decode w = .instr ((opcodeRows[k.val]'k.isLt).build (fieldsOf w)) := by
  have hsel : (opcodeRows[k.val]'k.isLt).selects w = true := Row.selects_eq_true_iff.2 h
  refine decode_of_first_row k hsel fun j hj => Bool.eq_false_iff.2 fun hearlier => ?_
  exact hk ((rows_share_word_iff j k hj).1 ⟨w, hearlier, hsel⟩)

end Sys2Proof

namespace Sys2Proof.Machine

@[simp] theorem addressOf_toNat (nnn : BitVec 12) : (addressOf nnn).toNat = nnn.toNat :=
  BitVec.toNat_setWidth_of_le (by decide)

theorem exec_jp (nnn : BitVec 12) (s : State) : exec (.jp nnn) s = .next (s.setPc (addressOf nnn)) := rfl

/-- A skip whose test decides `p` moves pc by 2 where `p` holds, and changes nothing else (R129 f). -/
theorem State.skipIf_of_iff (s : State) {c : Bool} {p : Prop} [Decidable p] (h : c = true ↔ p) :
    s.skipIf c = { s with pc := if p then s.pc + 2#16 else s.pc } := by
  rw [State.skipIf, State.setPc, if_congr h rfl rfl]

/-- The skip on equal bytes (R125, R127). -/
theorem State.skipIf_beq (s : State) (a b : Byte) :
    s.skipIf (a == b) = { s with pc := if a = b then s.pc + 2#16 else s.pc } :=
  s.skipIf_of_iff beq_iff_eq

/-- The skip on unequal bytes (R126, R128). -/
theorem State.skipIf_bne (s : State) (a b : Byte) :
    s.skipIf (a != b) = { s with pc := if a = b then s.pc else s.pc + 2#16 } := by
  rw [s.skipIf_of_iff bne_iff_ne, ite_not]

theorem exec_seImm (x : Reg) (kk : Byte) (s : State) :
    exec (.seImm x kk) s = .next { s with pc := if s.reg x = kk then s.pc + 2#16 else s.pc } :=
  congrArg _ (s.skipIf_beq (s.reg x) kk)

theorem exec_sneImm (x : Reg) (kk : Byte) (s : State) :
    exec (.sneImm x kk) s = .next { s with pc := if s.reg x = kk then s.pc else s.pc + 2#16 } :=
  congrArg _ (s.skipIf_bne (s.reg x) kk)

end Sys2Proof.Machine
end

section
/-! The obligations of the flow instructions (40_flow.md). -/

open Sys2Proof Sys2Proof.Machine

/-- Settles O11: row 4 decodes its whole class, and the jump writes the zero-extended operand to pc alone. -/
theorem jumpSetsPc : Obligations.JumpSetsPc := by
  refine ⟨fun w hw => decode_of_selects 3 (by decide) hw, fun nnn s => ?_⟩
  exact ⟨s.setPc (addressOf nnn), exec_jp nnn s, addressOf_toNat nnn, rfl⟩

/-- Settles O13: rows 6 and 7 decode their whole classes, and their tests are an equality and its negation. -/
theorem skipsOnImmediate : Obligations.SkipsOnImmediate :=
  ⟨fun w hw => decode_of_selects 5 (by decide) hw, fun w hw => decode_of_selects 6 (by decide) hw,
    fun x kk s => ⟨exec_seImm x kk s, exec_sneImm x kk s⟩⟩

end

section
/-! The rules of the register instructions: what one register write leaves, what a result followed by the flag leaves, and
the arithmetic of the difference (41_alu.md R152, R153). -/

namespace Sys2Proof.Machine

variable (s : State) (x y : Reg) (b : Byte) (f : Bool)

@[simp] theorem State.reg_setReg_same : (s.setReg x b).reg x = b := by
  rw [s.reg_setReg, if_pos rfl]

variable {x} in
theorem State.reg_setReg_of_ne {z : Reg} (h : z ≠ x) : (s.setReg x b).reg z = s.reg z := by
  rw [s.reg_setReg, if_neg h]

variable {x} in
theorem State.reg_setResultAndFlag_result (h : x ≠ vf) : (s.setResultAndFlag x b f).reg x = b := by
  rw [s.reg_setResultAndFlag, if_neg h, if_pos rfl]

variable {f} in
/-- A flag that decides `p` leaves 1 in `VF` where `p` holds and else 0, whatever the destination. -/
theorem State.reg_setResultAndFlag_vf_of_iff {p : Prop} [Decidable p] (h : f = true ↔ p) :
    (s.setResultAndFlag x b f).reg vf = if p then 1#8 else 0#8 := by
  rw [s.reg_setResultAndFlag, if_pos rfl, if_congr h rfl rfl]

variable {x} in
theorem State.reg_setResultAndFlag_of_ne {z : Reg} (hx : z ≠ x) (hf : z ≠ vf) :
    (s.setResultAndFlag x b f).reg z = s.reg z := by
  rw [s.reg_setResultAndFlag, if_neg hf, if_neg hx]

theorem carryOfAdd_iff (a b : Byte) : carryOfAdd a b = true ↔ 255 < a.toNat + b.toNat := decide_eq_true_iff

theorem notBorrow_iff (a b : Byte) : notBorrow a b = true ↔ b.toNat < a.toNat := decide_eq_true_iff

/-- A difference of bytes is the difference of their values mod 256. -/
theorem toNat_sub_eq_emod (a b : Byte) : ((a - b).toNat : Int) = ((a.toNat : Int) - b.toNat) % 256 := by
  rw [BitVec.toNat_sub]
  omega

theorem exec_ldImm (kk : Byte) : exec (.ldImm x kk) s = .next (s.setReg x kk) := rfl

theorem exec_ldReg : exec (.ldReg x y) s = .next (s.setReg x (s.reg y)) := rfl

theorem exec_addReg : exec (.addReg x y) s =
    .next (s.setResultAndFlag x (s.reg x + s.reg y) (carryOfAdd (s.reg x) (s.reg y))) := rfl

theorem exec_sub : exec (.sub x y) s =
    .next (s.setResultAndFlag x (s.reg x - s.reg y) (notBorrow (s.reg x) (s.reg y))) := rfl

theorem exec_subn : exec (.subn x y) s =
    .next (s.setResultAndFlag x (s.reg y - s.reg x) (notBorrow (s.reg y) (s.reg x))) := rfl

variable {s x} in
/-- Both subtracts do this, each with its own minuend `a` and subtrahend `b` (R147, R149). -/
theorem subtract_of_exec_eq {i : Instr} {a b : Byte}
    (h : exec i s = .next (s.setResultAndFlag x (a - b) (notBorrow a b))) :
    ∃ t, exec i s = .next t ∧ (x ≠ 15 → ((t.reg x).toNat : Int) = ((a.toNat : Int) - b.toNat) % 256) ∧
      t.reg 15 = (if b.toNat < a.toNat then 1#8 else 0#8) ∧
      (∀ z, z ≠ x → z ≠ 15 → t.reg z = s.reg z) ∧ t = { s with v := t.v } := by
  refine ⟨_, h, fun hx => ?_, s.reg_setResultAndFlag_vf_of_iff x _ (notBorrow_iff a b),
    fun z hzx hzf => s.reg_setResultAndFlag_of_ne _ _ hzx hzf, rfl⟩
  rw [s.reg_setResultAndFlag_result _ _ hx, toNat_sub_eq_emod]

end Sys2Proof.Machine
end

section
/-! The obligations of the register instructions (41_alu.md). -/

open Sys2Proof Sys2Proof.Machine

/-- Settles O15: row 9 decodes its whole class, and the load is one register write. -/
theorem immediateLoad : Obligations.ImmediateLoad :=
  ⟨fun w hw => decode_of_selects 8 (by decide) hw, fun x kk s =>
    ⟨_, exec_ldImm s x kk, s.reg_setReg_same x kk, fun _ hz => s.reg_setReg_of_ne kk hz, rfl⟩⟩

/-- Settles O17: row 11 decodes its whole pattern, and the copy is one register write. -/
theorem registerCopy : Obligations.RegisterCopy :=
  ⟨fun w hw => decode_of_selects 10 (by decide) hw, fun x y s =>
    ⟨_, exec_ldReg s x y, s.reg_setReg_same x (s.reg y), fun _ hz => s.reg_setReg_of_ne (s.reg y) hz, rfl⟩⟩

/-- Settles O19: the sum is written first and the carry last, so for x = 15 only the sum is lost. -/
theorem addWithCarry : Obligations.AddWithCarry := by
  refine ⟨fun w hw => decode_of_selects 14 (by decide) hw, fun x y s => ⟨_, exec_addReg s x y, fun hx => ?_,
    s.reg_setResultAndFlag_vf_of_iff x _ (carryOfAdd_iff (s.reg x) (s.reg y)),
    fun z hzx hzf => s.reg_setResultAndFlag_of_ne _ _ hzx hzf, rfl⟩⟩
  rw [s.reg_setResultAndFlag_result _ _ hx, BitVec.toNat_add]

/-- Settles O20: the two subtracts are one rule, its minuend and subtrahend exchanged. -/
theorem subtractWithNotBorrow : Obligations.SubtractWithNotBorrow :=
  ⟨fun w hw => decode_of_selects 15 (by decide) hw, fun w hw => decode_of_selects 17 (by decide) hw,
    fun x y s => ⟨subtract_of_exec_eq (exec_sub s x y), subtract_of_exec_eq (exec_subn s x y)⟩⟩

end

section
/-! The index load: its rule and its obligation (42_index_memory.md R160). -/

namespace Sys2Proof.Machine

theorem exec_ldI (nnn : BitVec 12) (s : State) : exec (.ldI nnn) s = .next (s.setI (addressOf nnn)) := rfl

end Sys2Proof.Machine

open Sys2Proof Sys2Proof.Machine

/-- Settles O23: row 21 decodes its whole class, and the load writes the zero-extended operand to I alone. -/
theorem indexLoad : Obligations.IndexLoad := by
  refine ⟨fun w hw => decode_of_selects 20 (by decide) hw, fun nnn s => ?_⟩
  exact ⟨s.setI (addressOf nnn), exec_ldI nnn s, addressOf_toNat nnn, rfl⟩

end

section
/-! The clear screen: its rule and its obligation (43_display.md R170). -/

namespace Sys2Proof.Machine

theorem exec_cls (s : State) : exec .cls s = .next (s.setFb blankFramebuffer) := rfl

end Sys2Proof.Machine

open Sys2Proof Sys2Proof.Machine

/-- Settles O30: row 1 is the exact word, and the instruction sets the framebuffer to the blank one and nothing else. -/
theorem clearScreen : Obligations.ClearScreen := by
  refine ⟨decode_of_selects 0 (by decide) rfl, fun s => ?_⟩
  exact ⟨s.setFb blankFramebuffer, exec_cls s, pixel_blank, rfl⟩

end

section
/-! The timer loads: their rules and their obligation (44_keys_timers.md R182, R184, R185). -/

namespace Sys2Proof.Machine

variable (x : Reg) (s : State)

theorem exec_ldVxDt : exec (.ldVxDt x) s = .next (s.setReg x s.dt) := rfl

theorem exec_ldDtVx : exec (.ldDtVx x) s = .next (s.setDt (s.reg x)) := rfl

theorem exec_ldStVx : exec (.ldStVx x) s = .next (s.setSt (s.reg x)) := rfl

end Sys2Proof.Machine

open Sys2Proof Sys2Proof.Machine

/-- Settles O35: rows 27, 29 and 30 decode their whole patterns; the read of DT is one register write, and each write of
a timer replaces that timer alone. -/
theorem timerAccess : Obligations.TimerAccess := by
  refine ⟨fun w hw => decode_of_selects 26 (by decide) hw, fun w hw => decode_of_selects 28 (by decide) hw,
    fun w hw => decode_of_selects 29 (by decide) hw, fun x s => ⟨?_, exec_ldDtVx x s, exec_ldStVx x s⟩⟩
  exact ⟨s.setReg x s.dt, exec_ldVxDt x s, s.reg_setReg_same x s.dt, fun _ hz => s.reg_setReg_of_ne s.dt hz, rfl⟩

end

section
/-! Boot through the load port: what each sample of a ROM image does to the core in `Booting`, and the run of them all
(10_state.md R42, R43, 70_reset_and_hazards.md R241). -/

namespace Sys2Proof.Machine

theorem Memory.writeBytes_append (m : Memory) (a : Nat) (bs cs : List Byte) :
    m.writeBytes a (bs ++ cs) = (m.writeBytes a bs).writeBytes (a + bs.length) cs := by
  induction bs generalizing m a with
  | nil => rfl
  | cons b bs ih =>
    rw [List.cons_append, Memory.writeBytes, Memory.writeBytes, ih, List.length_cons, Nat.add_right_comm, Nat.add_assoc]

/-- A step in `Booting` without reset is the boot step and the next sample of the inputs. -/
theorem step_of_booting {s : State} (hrst : s.env.now.rst = false) (hb : s.run = .booting) :
    step s = .next s.lowerPulses.bootStep.nextSample :=
  step_eq_next.2 (.inr ⟨hrst, _, State.iterate_eq_next.2 (.inl ⟨hb, rfl⟩), rfl⟩)

theorem runSteps_succ_of_next {s t : State} (h : step s = .next t) (k : Nat) : runSteps (k + 1) s = runSteps k t := by
  rw [runSteps, h]

/-- The step of an image's first byte leaves the environment of the rest of it. -/
theorem bootEnv_cons_advance (b : Byte) (rom : List Byte) : (bootEnv (b :: rom)).advance = bootEnv rom := by
  cases rom <;> rfl

/-- The core in `Booting` after the bytes `done` came through the load port: the reset state but for them and their
count. -/
def State.romLoaded (p : Params) (done : List Byte) (e : Env) : State :=
  { State.powerOn p e with mem := Memory.writeBytes [] 512 done, romCnt := Fin.ofNat 3585 done.length }

variable {p : Params} {done : List Byte} {e : Env}

theorem State.romLoaded_nil : State.romLoaded p [] e = State.powerOn p e := rfl

theorem State.romLoaded_romCnt (h : done.length ≤ 3584) : (State.romLoaded p done e).romCnt.val = done.length :=
  Nat.mod_eq_of_lt (by omega)

theorem State.loadRomByte_romLoaded (b : Byte) (h : done.length < 3584) :
    (State.romLoaded p done e).loadRomByte b = State.romLoaded p (done ++ [b]) e := by
  have hcnt : (State.romLoaded p done e).romCnt.val = done.length := State.romLoaded_romCnt h.le
  obtain ⟨hfull, -⟩ | ⟨hroom, hload⟩ := (State.romLoaded p done e).loadRomByte_cases b
  · omega
  · have hmem : (State.romLoaded p done e).mem.write (loadAddress + (State.romLoaded p done e).romCnt.val) b =
        (State.romLoaded p (done ++ [b]) e).mem := by
      rw [hcnt]
      exact (Memory.writeBytes_append [] 512 done [b]).symm
    have hnext : (⟨(State.romLoaded p done e).romCnt.val + 1, by omega⟩ : Fin 3585) =
        (State.romLoaded p (done ++ [b]) e).romCnt := by
      refine Fin.ext ((congrArg (· + 1) hcnt).trans ?_)
      rw [State.romLoaded_romCnt (by simpa using Nat.succ_le_of_lt h), List.length_append, List.length_singleton]
    rw [hload, hmem, hnext]
    rfl

/-- The sample of a byte adds that byte to those loaded (10_state.md R43). -/
theorem step_romLoaded_byte (b : Byte) (rest : List Byte) (h : done.length < 3584) :
    step (State.romLoaded p done (bootEnv (b :: rest))) = .next (State.romLoaded p (done ++ [b]) (bootEnv rest)) := by
  have hboot : (State.romLoaded p done (bootEnv (b :: rest))).bootStep =
      (State.romLoaded p done (bootEnv (b :: rest))).loadRomByte b := by
    obtain ⟨hstop, -⟩ | ⟨-, -, hfull, -⟩ | ⟨-, -, -, hstep⟩ :=
      (State.romLoaded p done (bootEnv (b :: rest))).bootStep_cases rfl
    · cases hstop
    · rw [State.romLoaded_romCnt h.le] at hfull
      omega
    · exact hstep
  calc step (State.romLoaded p done (bootEnv (b :: rest)))
      = .next (State.romLoaded p done (bootEnv (b :: rest))).bootStep.nextSample := step_of_booting rfl rfl
    _ = .next (State.romLoaded p (done ++ [b]) (bootEnv (b :: rest))).nextSample := by
        rw [hboot, State.loadRomByte_romLoaded b h]
    _ = .next (State.romLoaded p (done ++ [b]) (bootEnv (b :: rest)).advance) := rfl
    _ = .next (State.romLoaded p (done ++ [b]) (bootEnv rest)) := by rw [bootEnv_cons_advance]

/-- The sample after the last byte ends boot (70_reset_and_hazards.md R241). -/
theorem step_romLoaded_go :
    step (State.romLoaded p done (bootEnv [])) = .next (State.romLoaded p done (bootEnv [])).enterRunning :=
  step_of_booting rfl rfl

/-- The samples of the bytes still to come, then `boot_go`: boot ends with all of them loaded. -/
theorem runSteps_romLoaded (rest : List Byte) (h : done.length + rest.length ≤ 3584) :
    runSteps (rest.length + 1) (State.romLoaded p done (bootEnv rest)) =
      .next (State.romLoaded p (done ++ rest) (bootEnv [])).enterRunning := by
  induction rest generalizing done with
  | nil => rw [List.append_nil, List.length_nil, runSteps_succ_of_next step_romLoaded_go, runSteps]
  | cons b rest ih =>
    rw [List.length_cons] at h ⊢
    rw [runSteps_succ_of_next (step_romLoaded_byte b rest (by omega)), ih (by simp; omega),
      List.append_assoc, List.singleton_append]

/-! Memory on entering `Running`: the font over the loaded image, their cells apart (70_reset_and_hazards.md R241). -/

/-- An image of at most 3584 bytes ends inside the memory. -/
theorem romEnd_le (h : done.length ≤ 3584) : 512 + done.length ≤ lastAddress + 1 := Nat.add_le_add_left h 512

theorem State.romLoaded_enterRunning_mem : (State.romLoaded p done e).enterRunning.mem =
    (Memory.writeBytes [] 512 done).writeBytes 0 p.font.toList := rfl

theorem State.romLoaded_read_font (h : done.length ≤ 3584) (a : Fin 80) :
    (State.romLoaded p done e).enterRunning.mem.read a.val = p.font[a.val] := by
  have hwf : (Memory.writeBytes [] 512 done).wf = true := Memory.wf_writeBytes rfl (.inr (romEnd_le h))
  rw [State.romLoaded_enterRunning_mem, Memory.read_writeBytes hwf (by simp), dif_pos (by simp)]
  simp

/-- From address 80 on memory is the loaded image's alone. -/
theorem State.romLoaded_read_above_font {a : Nat} (ha : 80 ≤ a) :
    (State.romLoaded p done e).enterRunning.mem.read a = (Memory.writeBytes [] 512 done).read a :=
  Memory.read_writeBytes_other _ (by simp; omega)

theorem State.romLoaded_read_rom (h : done.length ≤ 3584) {k : Nat} (hk : k < done.length) :
    (State.romLoaded p done e).enterRunning.mem.read (512 + k) = done[k] := by
  rw [State.romLoaded_read_above_font (by omega), Memory.read_writeBytes rfl (romEnd_le h), dif_pos (by omega)]
  simp

theorem State.romLoaded_read_other {a : Nat} (ha : 80 ≤ a) (hout : a < 512 ∨ 512 + done.length ≤ a) :
    (State.romLoaded p done e).enterRunning.mem.read a = 0#8 := by
  rw [State.romLoaded_read_above_font ha, Memory.read_writeBytes_other _ (by omega), Memory.read_nil]

theorem State.counterOnEntry_clocked {s : State} (hf : s.params.form = .clocked) (period old : Nat) :
    s.counterOnEntry period old = period - 1 := by
  rw [State.counterOnEntry, hf]

end Sys2Proof.Machine
end

section
/-! The obligation of boot (70_reset_and_hazards.md). -/

open Sys2Proof Sys2Proof.Machine

/-- Settles O56, by induction on the bytes still to come: each sample adds its byte to those loaded, and `boot_go` writes
the font below them. -/
theorem bootLoadsEveryRom : Obligations.BootLoadsEveryRom := by
  intro p rom hlen
  have hcnt : (State.romLoaded p rom (bootEnv [])).romCnt.val = rom.length := State.romLoaded_romCnt hlen
  have hzeros : ∀ x : Reg, (State.romLoaded p rom (bootEnv [])).reg x = 0#8 := fun x => by
    simp [State.romLoaded, State.powerOn, State.reg]
  have hstack : ∀ j : Fin 16, (State.romLoaded p rom (bootEnv [])).stack[j.val] = 0#16 := fun j => by
    simp [State.romLoaded, State.powerOn]
  have hcounters : p.form = .clocked → (State.romLoaded p rom (bootEnv [])).enterRunning.cntInstr = p.fClk / 500 - 1 ∧
      (State.romLoaded p rom (bootEnv [])).enterRunning.cntTimer = p.fClk / 60 - 1 := fun hf =>
    ⟨State.counterOnEntry_clocked hf _ _, State.counterOnEntry_clocked hf _ _⟩
  refine ⟨(State.romLoaded p rom (bootEnv [])).enterRunning, ?_, rfl, rfl, rfl, rfl, hzeros, rfl, rfl, hstack, rfl, rfl,
    pixel_blank, hcnt, State.romLoaded_read_font hlen, fun k hk => State.romLoaded_read_rom hlen hk,
    fun a ha hout => State.romLoaded_read_other ha hout, hcounters⟩
  rw [← State.romLoaded_nil, runSteps_romLoaded rom (by simpa using hlen), List.nil_append]

end

section
/-! Encoding and decoding invert each other: the word of an instruction selects its row of the opcode map, and a word is
its class digit over the fields of each format (30_encoding.md R92, R98, R101). -/

namespace Sys2Proof

variable {w : Word}

theorem and_FFFF (w : Word) : w &&& 0xFFFF#16 = w := BitVec.and_allOnes

/-- Row 3 takes its class but the two exact words of the rows before it (R95). -/
theorem decode_sys (h : w &&& 0xF000#16 = 0x0000#16) (hcls : w ≠ 0x00E0#16) (hret : w ≠ 0x00EE#16) :
    decode w = .instr (.sys (fieldNnn w)) := by
  refine decode_of_first_row 2 (Row.selects_eq_true_iff.2 h) fun j hj => Bool.eq_false_iff.2 fun hsel => ?_
  have hw := Row.selects_eq_true_iff.1 hsel
  obtain rfl | rfl : j = 0 ∨ j = 1 := by omega
  · exact hcls ((and_FFFF w).symm.trans hw)
  · exact hret ((and_FFFF w).symm.trans hw)

open Laws.SelectedByItsRow in
theorem selectedByItsRow (i : Instr) : Statement i := by
  cases i with
  | cls => exact cls
  | ret => exact ret
  | sys nnn => exact sys nnn
  | jp nnn => exact jp nnn
  | call nnn => exact call nnn
  | seImm x kk => exact seImm x kk
  | sneImm x kk => exact sneImm x kk
  | seReg x y => exact seReg x y
  | ldImm x kk => exact ldImm x kk
  | addImm x kk => exact addImm x kk
  | ldReg x y => exact ldReg x y
  | orReg x y => exact orReg x y
  | andReg x y => exact andReg x y
  | xorReg x y => exact xorReg x y
  | addReg x y => exact addReg x y
  | sub x y => exact sub x y
  | shr x y => exact shr x y
  | subn x y => exact subn x y
  | shl x y => exact shl x y
  | sneReg x y => exact sneReg x y
  | ldI nnn => exact ldI nnn
  | jpV0 nnn => exact jpV0 nnn
  | rnd x kk => exact rnd x kk
  | drw x y n => exact drw x y n
  | skp x => exact skp x
  | sknp x => exact sknp x
  | ldVxDt x => exact ldVxDt x
  | ldVxKey x => exact ldVxKey x
  | ldDtVx x => exact ldDtVx x
  | ldStVx x => exact ldStVx x
  | addI x => exact addI x
  | ldFont x => exact ldFont x
  | ldBcd x => exact ldBcd x
  | ldMemVx x => exact ldMemVx x
  | ldVxMem x => exact ldVxMem x

/-- A well-formed machine-routine operation is neither of the exact words. -/
theorem encode_sys_ne_exact {nnn : BitVec 12} (h : WellFormed (.sys nnn) = true) :
    encode (.sys nnn) ≠ 0x00E0#16 ∧ encode (.sys nnn) ≠ 0x00EE#16 := by
  have hfield : fieldNnn (encode (.sys nnn)) = nnn := fieldNnn_formatNnn 0x0#4 nnn
  obtain ⟨hcls, hret⟩ : nnn ≠ 0x0E0#12 ∧ nnn ≠ 0x0EE#12 := by simpa [WellFormed] using h
  exact ⟨fun e => hcls (hfield.symm.trans (congrArg fieldNnn e)),
    fun e => hret (hfield.symm.trans (congrArg fieldNnn e))⟩

theorem decode_encode {i : Instr} (h : WellFormed i = true) : decode (encode i) = .instr i := by
  obtain ⟨k, hsel, hbuild⟩ := selectedByItsRow i
  have hword := Row.selects_eq_true_iff.1 hsel
  by_cases hk : k.val = 2
  · obtain rfl : k = 2 := Fin.ext hk
    have hsys : Instr.sys (fieldNnn (encode i)) = i := hbuild
    obtain ⟨hcls, hret⟩ := encode_sys_ne_exact (hsys ▸ h)
    rw [hsys] at hcls hret
    rw [decode_sys hword hcls hret, hsys]
  · rw [decode_of_selects k hk hword, hbuild]

/-- High byte first (20_memory.md R64). -/
theorem decodeBytes_bytesOfWord (w : Word) (rest : List Byte) :
    decodeBytes (bytesOfWord w ++ rest) = .word (decode w) rest := by
  have hword : wordOfBytes (w.extractLsb' 8 8) (w.extractLsb' 0 8) = w := 
    (BitVec.extractLsb'_append_extractLsb'_eq_extractLsb' rfl).trans BitVec.extractLsb'_eq_self
  rw [bytesOfWord, List.cons_append, List.singleton_append, decodeBytes, hword]

/-! A word taken apart into the fields of a format, and the rows that select it. -/

theorem formatNnn_fields (w : Word) : formatNnn (classOf w) (fieldNnn w) = w :=
  (BitVec.extractLsb'_append_extractLsb'_eq_extractLsb' rfl).trans BitVec.extractLsb'_eq_self

theorem formatXkk_fields (w : Word) : formatXkk (classOf w) (fieldX w) (fieldKk w) = w := by
  have hhigh : classOf w ++ digit (fieldX w) = w.extractLsb' 8 8 :=
    BitVec.extractLsb'_append_extractLsb'_eq_extractLsb' rfl
  rw [formatXkk, hhigh]
  exact (BitVec.extractLsb'_append_extractLsb'_eq_extractLsb' rfl).trans BitVec.extractLsb'_eq_self

theorem formatXyn_fields (w : Word) : formatXyn (classOf w) (fieldX w) (fieldY w) (digit (fieldN w)) = w := by
  have hlow : digit (fieldY w) ++ digit (fieldN w) = fieldKk w :=
    BitVec.extractLsb'_append_extractLsb'_eq_extractLsb' rfl
  rw [formatXyn, hlow]
  exact formatXkk_fields w

/-- The masks of R96 keep the class digit and, by format, the last digit or the low byte. -/
theorem and_F000_eq_iff {c : BitVec 4} : w &&& 0xF000#16 = formatXkk c 0 0#8 ↔ classOf w = c := by
  conv_lhs => rw [← formatXkk_fields w, formatXkk_and_F000]
  exact ⟨fun h => by simpa only [classOf_formatXkk] using congrArg classOf h, fun h => by rw [h]⟩

theorem and_F00F_eq_iff {c n : BitVec 4} :
    w &&& 0xF00F#16 = formatXyn c 0 0 n ↔ classOf w = c ∧ digit (fieldN w) = n := by
  conv_lhs => rw [← formatXyn_fields w, formatXyn_and_F00F]
  refine ⟨fun h => ⟨?_, ?_⟩, fun ⟨hc, hn⟩ => by rw [hc, hn]⟩
  · simpa only [classOf_formatXyn] using congrArg classOf h
  · have hlast : (digit (fieldN w)).toFin = n.toFin := by simpa only [fieldN_formatXyn] using congrArg fieldN h
    exact congrArg digit hlast

theorem and_F0FF_eq_iff {c : BitVec 4} {kk : Byte} :
    w &&& 0xF0FF#16 = formatXkk c 0 kk ↔ classOf w = c ∧ fieldKk w = kk := by
  conv_lhs => rw [← formatXkk_fields w, formatXkk_and_F0FF]
  refine ⟨fun h => ⟨?_, ?_⟩, fun ⟨hc, hk⟩ => by rw [hc, hk]⟩
  · simpa only [classOf_formatXkk] using congrArg classOf h
  · simpa only [fieldKk_formatXkk] using congrArg fieldKk h

/-- The words a row selects are the encodings of the instructions it builds from them. -/
def Row.Inverts (r : Row) : Prop := ∀ w, r.selects w = true → encode (r.build (fieldsOf w)) = w

section
variable {c n : BitVec 4} {kk : Byte}

theorem Row.inverts_exact {p : Word} {i : Instr} (h : encode i = p) : Row.Inverts ⟨p, 0xFFFF#16, fun _ => i⟩ := by
  intro w hw
  exact h.trans ((Row.selects_eq_true_iff.1 hw).symm.trans (and_FFFF w))

theorem Row.inverts_formatNnn {f : BitVec 12 → Instr} (h : ∀ nnn, encode (f nnn) = formatNnn c nnn) :
    Row.Inverts ⟨formatXkk c 0 0#8, 0xF000#16, fun g => f g.nnn⟩ := by
  intro w hw
  obtain rfl := and_F000_eq_iff.1 (Row.selects_eq_true_iff.1 hw)
  exact (h _).trans (formatNnn_fields w)

theorem Row.inverts_formatXkk {f : Reg → Byte → Instr} (h : ∀ x kk, encode (f x kk) = formatXkk c x kk) :
    Row.Inverts ⟨formatXkk c 0 0#8, 0xF000#16, fun g => f g.x g.kk⟩ := by
  intro w hw
  obtain rfl := and_F000_eq_iff.1 (Row.selects_eq_true_iff.1 hw)
  exact (h _ _).trans (formatXkk_fields w)

theorem Row.inverts_formatXyn {f : Reg → Reg → Fin 16 → Instr}
    (h : ∀ x y n, encode (f x y n) = formatXyn c x y (digit n)) :
    Row.Inverts ⟨formatXkk c 0 0#8, 0xF000#16, fun g => f g.x g.y g.n⟩ := by
  intro w hw
  obtain rfl := and_F000_eq_iff.1 (Row.selects_eq_true_iff.1 hw)
  exact (h _ _ _).trans (formatXyn_fields w)

theorem Row.inverts_formatXy {f : Reg → Reg → Instr} (h : ∀ x y, encode (f x y) = formatXyn c x y n) :
    Row.Inverts ⟨formatXyn c 0 0 n, 0xF00F#16, fun g => f g.x g.y⟩ := by
  intro w hw
  obtain ⟨rfl, rfl⟩ := and_F00F_eq_iff.1 (Row.selects_eq_true_iff.1 hw)
  exact (h _ _).trans (formatXyn_fields w)

theorem Row.inverts_formatX {f : Reg → Instr} (h : ∀ x, encode (f x) = formatXkk c x kk) :
    Row.Inverts ⟨formatXkk c 0 kk, 0xF0FF#16, fun g => f g.x⟩ := by
  intro w hw
  obtain ⟨rfl, rfl⟩ := and_F0FF_eq_iff.1 (Row.selects_eq_true_iff.1 hw)
  exact (h _).trans (formatXkk_fields w)

end

open Row in
theorem rowsFlow_invert : ∀ r ∈ rowsFlow, r.Inverts := by
  simp only [rowsFlow, List.forall_mem_cons]
  exact ⟨inverts_exact rfl, inverts_exact rfl,
    inverts_formatNnn (c := 0x0#4) fun _ => rfl,
    inverts_formatNnn (c := 0x1#4) fun _ => rfl,
    inverts_formatNnn (c := 0x2#4) fun _ => rfl,
    inverts_formatXkk (c := 0x3#4) fun _ _ => rfl,
    inverts_formatXkk (c := 0x4#4) fun _ _ => rfl,
    inverts_formatXy (c := 0x5#4) (n := 0x0#4) fun _ _ => rfl, List.forall_mem_nil _⟩

open Row in
theorem rowsAlu_invert : ∀ r ∈ rowsAlu, r.Inverts := by
  simp only [rowsAlu, List.forall_mem_cons]
  exact ⟨inverts_formatXkk (c := 0x6#4) fun _ _ => rfl,
    inverts_formatXkk (c := 0x7#4) fun _ _ => rfl,
    inverts_formatXy (c := 0x8#4) (n := 0x0#4) fun _ _ => rfl,
    inverts_formatXy (c := 0x8#4) (n := 0x1#4) fun _ _ => rfl,
    inverts_formatXy (c := 0x8#4) (n := 0x2#4) fun _ _ => rfl,
    inverts_formatXy (c := 0x8#4) (n := 0x3#4) fun _ _ => rfl,
    inverts_formatXy (c := 0x8#4) (n := 0x4#4) fun _ _ => rfl,
    inverts_formatXy (c := 0x8#4) (n := 0x5#4) fun _ _ => rfl,
    inverts_formatXy (c := 0x8#4) (n := 0x6#4) fun _ _ => rfl,
    inverts_formatXy (c := 0x8#4) (n := 0x7#4) fun _ _ => rfl,
    inverts_formatXy (c := 0x8#4) (n := 0xE#4) fun _ _ => rfl,
    inverts_formatXy (c := 0x9#4) (n := 0x0#4) fun _ _ => rfl, List.forall_mem_nil _⟩

open Row in
theorem rowsRest_invert : ∀ r ∈ rowsRest, r.Inverts := by
  simp only [rowsRest, List.forall_mem_cons]
  exact ⟨inverts_formatNnn (c := 0xA#4) fun _ => rfl,
    inverts_formatNnn (c := 0xB#4) fun _ => rfl,
    inverts_formatXkk (c := 0xC#4) fun _ _ => rfl,
    inverts_formatXyn (c := 0xD#4) fun _ _ _ => rfl,
    inverts_formatX (c := 0xE#4) (kk := 0x9E#8) fun _ => rfl,
    inverts_formatX (c := 0xE#4) (kk := 0xA1#8) fun _ => rfl,
    inverts_formatX (c := 0xF#4) (kk := 0x07#8) fun _ => rfl,
    inverts_formatX (c := 0xF#4) (kk := 0x0A#8) fun _ => rfl,
    inverts_formatX (c := 0xF#4) (kk := 0x15#8) fun _ => rfl,
    inverts_formatX (c := 0xF#4) (kk := 0x18#8) fun _ => rfl,
    inverts_formatX (c := 0xF#4) (kk := 0x1E#8) fun _ => rfl,
    inverts_formatX (c := 0xF#4) (kk := 0x29#8) fun _ => rfl,
    inverts_formatX (c := 0xF#4) (kk := 0x33#8) fun _ => rfl,
    inverts_formatX (c := 0xF#4) (kk := 0x55#8) fun _ => rfl,
    inverts_formatX (c := 0xF#4) (kk := 0x65#8) fun _ => rfl, List.forall_mem_nil _⟩

theorem opcodeRows_invert : ∀ r ∈ opcodeRows, r.Inverts :=
  List.forall_mem_append.2 ⟨List.forall_mem_append.2 ⟨rowsFlow_invert, rowsAlu_invert⟩, rowsRest_invert⟩

/-- A word decodes to an instruction only through a row that selects it. -/
theorem exists_row_of_decode {i : Instr} (h : decode w = .instr i) :
    ∃ r ∈ opcodeRows, r.selects w = true ∧ r.build (fieldsOf w) = i := by
  rw [decode, dispatch_eq_find?] at h
  cases hfind : opcodeRows.find? (·.selects w) with
  | none => rw [hfind] at h; cases h
  | some r =>
    rw [hfind] at h
    exact ⟨r, List.mem_of_find?_eq_some hfind, (List.find?_eq_some_iff_getElem.1 hfind).1, Decoded.instr.inj h⟩

theorem encode_of_decode {i : Instr} (h : decode w = .instr i) : encode i = w := by
  obtain ⟨r, hr, hsel, rfl⟩ := exists_row_of_decode h
  exact opcodeRows_invert r hr w hsel

/-- The machine-routine operation is never what the exact words decode to (R95). -/
theorem wellFormed_of_decode {i : Instr} (h : decode w = .instr i) : WellFormed i = true := by
  obtain rfl := encode_of_decode h
  cases i with
  | sys nnn =>
    have hcls : nnn ≠ 0x0E0#12 := by rintro rfl; cases h
    have hret : nnn ≠ 0x0EE#12 := by rintro rfl; cases h
    simp [WellFormed, hcls, hret]
  | _ => rfl

/-! The unrecognized words, by their class digit, last digit and low byte (R100). -/

theorem decode_eq_unrecognized_iff : decode w = .unrecognized w ↔ ∀ r ∈ opcodeRows, w &&& r.mask ≠ r.pat := by
  refine ⟨fun h r hr hsel => ?_, fun h => decode_of_no_row_selects fun r hr =>
    Bool.eq_false_iff.2 (Row.selects_eq_true_iff.not.2 (h r hr))⟩
  have hfind : opcodeRows.find? (·.selects w) ≠ none := fun hnone =>
    List.find?_eq_none.1 hnone r hr (Row.selects_eq_true_iff.2 hsel)
  obtain ⟨q, hq⟩ := Option.ne_none_iff_exists'.1 hfind
  rw [decode, dispatch_eq_find?, hq] at h
  cases h

theorem toNat_eq_class_x_kk (w : Word) :
    w.toNat = (classOf w).toNat * 4096 + (fieldX w).val * 256 + (fieldKk w).toNat := by
  have hsplit : (w.extractLsb' 0 16).toNat = (classOf w).toNat * 4096 + (fieldNnn w).toNat :=
    extractLsb'_toNat_split w 0 12 4
  rw [BitVec.extractLsb'_eq_self] at hsplit
  rw [hsplit, fieldNnn_toNat_eq_x_kk, Nat.add_assoc]

theorem and_F000_toNat (w : Word) : (w &&& 0xF000#16).toNat = w.toNat / 4096 * 4096 := by
  conv_lhs => rw [← formatXkk_fields w, formatXkk_and_F000]
  rw [toNat_eq_class_x_kk, toNat_eq_class_x_kk w, classOf_formatXkk, fieldX_formatXkk, fieldKk_formatXkk]
  have hx := (fieldX w).isLt
  have hkk := (fieldKk w).isLt
  simp only [BitVec.toNat_ofNat, Fin.val_zero]
  omega

theorem and_F0FF_toNat (w : Word) : (w &&& 0xF0FF#16).toNat = w.toNat / 4096 * 4096 + w.toNat % 256 := by
  conv_lhs => rw [← formatXkk_fields w, formatXkk_and_F0FF]
  rw [toNat_eq_class_x_kk, toNat_eq_class_x_kk w, classOf_formatXkk, fieldX_formatXkk, fieldKk_formatXkk]
  have hx := (fieldX w).isLt
  have hkk := (fieldKk w).isLt
  simp only [Fin.val_zero]
  omega

theorem and_F00F_toNat (w : Word) : (w &&& 0xF00F#16).toNat = w.toNat / 4096 * 4096 + w.toNat % 16 := by
  conv_lhs => rw [← formatXyn_fields w, formatXyn_and_F00F]
  rw [toNat_eq_class_x_kk, toNat_eq_class_x_kk w, fieldKk_toNat_eq_y_n, fieldKk_toNat_eq_y_n w, classOf_formatXyn,
    fieldX_formatXyn, fieldY_formatXyn, fieldN_formatXyn, digit_toFin]
  have hx := (fieldX w).isLt
  have hy := (fieldY w).isLt
  have hn := (fieldN w).isLt
  simp only [Fin.val_zero]
  omega

end Sys2Proof
end

section
/-! The obligations of the round trip between words and instructions (30_encoding.md). -/

open Sys2Proof Sys2Proof.Machine

/-- Settles O1: the word of an instruction selects its row of the map, row 3 among them only for a word that is neither of
the exact ones, and a word's two bytes give it back. -/
theorem decodeInvertsEncode : Obligations.DecodeInvertsEncode := fun i hi =>
  ⟨decode_encode hi, fun rest => by rw [encodeBytes, decodeBytes_bytesOfWord, decode_encode hi]⟩

/-- Settles O2: each row's pattern and mask with the fields it takes are the whole word. -/
theorem encodeInvertsDecode : Obligations.EncodeInvertsDecode := fun _ _ h =>
  ⟨wellFormed_of_decode h, encode_of_decode h⟩

/-- Settles O5: a word is unrecognized when under no row's mask it has the row's pattern, and the masks read the class digit,
the last digit and the low byte; the sixteen classes are then compared one by one. -/
theorem unrecognizedWords : Obligations.UnrecognizedWords := by
  intro w
  have hclass : w.toNat / 4096 < 16 := Nat.div_lt_of_lt_mul w.isLt
  rw [decode_eq_unrecognized_iff]
  simp only [opcodeRows, rowsFlow, rowsAlu, rowsRest, List.forall_mem_append, List.forall_mem_cons, List.not_mem_nil,
    false_imp_iff, implies_true, and_true, ne_eq, ← BitVec.toNat_inj, and_FFFF, and_F000_toNat, and_F0FF_toNat,
    and_F00F_toNat, BitVec.toNat_ofNat, Nat.reduceMod, Nat.reducePow]
  interval_cases hc : w.toNat / 4096 <;> simp <;> omega

/-- Settles O6: each word is dispatched through the map. -/
theorem sampleWords : Obligations.SampleWords := ⟨rfl, rfl, rfl, rfl, rfl, rfl, rfl, rfl, rfl⟩

end

section
/-! Everything one instruction can do (10_state.md R46), said once: the frames and the invariant are read off it. -/

namespace Sys2Proof.Machine

/-- The writers of `I`. -/
def WritesIndex (i : Instr) : Prop := (∃ nnn, i = .ldI nnn) ∨ (∃ x, i = .addI x) ∨ ∃ x, i = .ldFont x

/-- The writers of the pc but `RET`. -/
def MovesPc (i : Instr) : Prop :=
  (∃ nnn, i = .sys nnn ∨ i = .jp nnn ∨ i = .call nnn ∨ i = .jpV0 nnn) ∨ (∃ x kk, i = .seImm x kk ∨ i = .sneImm x kk) ∨
    (∃ x y, i = .seReg x y ∨ i = .sneReg x y) ∨ ∃ x, i = .skp x ∨ i = .sknp x ∨ i = .ldVxKey x

/-- The causes an instruction halts with (60_exceptions.md R202 to R204). -/
def HaltCause.OfExec (c : HaltCause) : Prop :=
  c = .sysUnsupported ∨ c = .stackOverflow ∨ c = .stackUnderflow ∨ c = .memoryOutOfRange

/-- What an instruction makes of a state. The bound on a pc written is that of 92_eei_decisions.md D25, for an instruction
fetched from inside the memory. -/
inductive Effect (i : Instr) (s : State) : State → Prop
  | halts (c : HaltCause) (info : Word) (hc : c.OfExec) : Effect i s (s.halt c info)
  | registers (v : Vector Byte 16) (hv : ∀ z : Reg, writesReg i z = false → v[z.val] = s.reg z) : Effect i s (s.setRegs v)
  | index (a : Word) (hi : WritesIndex i) : Effect i s (s.setI a)
  | stores (bs : List Byte) (hlen : bs.length = storedBytes i) (hin : s.ea 0 + bs.length ≤ lastAddress + 1) :
      Effect i s (s.setMem (s.mem.writeBytes (s.ea 0) bs))
  | delay (b : Byte) (hi : ∃ x, i = .ldDtVx x) : Effect i s (s.setDt b)
  | sound (b : Byte) (hi : ∃ x, i = .ldStVx x) : Effect i s (s.setSt b)
  | clears (hi : i = .cls) : Effect i s (s.setFb blankFramebuffer)
  | draws (fb : Framebuffer) (f : Bool) (hi : ∃ x y n, i = .drw x y n) : Effect i s ((s.setFb fb).setFlag f)
  | jumps (a : Word) (hi : MovesPc i) (ha : 2 ≤ s.pc.toNat → s.pc.toNat ≤ 4096 → a.toNat ≤ 4350) : Effect i s (s.setPc a)
  | calls (nnn : BitVec 12) (hi : i = .call nnn) (hsp : s.sp.val < 16) : Effect i s { s with
      stack := s.stack.set s.sp.val s.pc, sp := ⟨s.sp.val + 1, by omega⟩, pc := addressOf nnn }
  | returns (hi : i = .ret) (hsp : 0 < s.sp.val) : Effect i s { s with
      sp := ⟨s.sp.val - 1, by omega⟩, pc := s.stack[s.sp.val - 1] }

section
variable {i : Instr} {s t : State} {x y : Reg}

theorem Effect.setReg (b : Byte) (h : ∀ z, writesReg i z = (z == x)) : Effect i s (s.setReg x b) :=
  .registers (s.setReg x b).v fun z hz => s.reg_setReg_of_ne b (by simpa [h] using hz)

theorem Effect.setResultAndFlag (b : Byte) (f : Bool) (h : ∀ z, writesReg i z = (z == x || z == vf)) :
    Effect i s (s.setResultAndFlag x b f) :=
  .registers (s.setResultAndFlag x b f).v fun z hz => by
    obtain ⟨hx, hf⟩ : z ≠ x ∧ z ≠ vf := by simpa [h] using hz
    exact s.reg_setResultAndFlag_of_ne b f hx hf

theorem Effect.memoryFault : Effect i s (s.halt .memoryOutOfRange (BitVec.ofNat 16 (max (s.ea 0) 4096))) :=
  .halts _ _ (.inr (.inr (.inr rfl)))

theorem addressOf_le (nnn : BitVec 12) : (addressOf nnn).toNat ≤ 4095 := by
  have := nnn.isLt
  rw [addressOf_toNat]
  omega

/-- The indexed target is not masked to 12 bits and cannot wrap (40_flow.md R124). -/
theorem indexedTarget_toNat (nnn : BitVec 12) (v0 : Byte) : (indexedTarget nnn v0).toNat = nnn.toNat + v0.toNat := by
  have hn := nnn.isLt
  have hv := v0.isLt
  rw [indexedTarget, wordOf, BitVec.toNat_add, addressOf_toNat, BitVec.toNat_setWidth_of_le (by decide)]
  omega

theorem indexedTarget_le (nnn : BitVec 12) (v0 : Byte) : (indexedTarget nnn v0).toNat ≤ 4350 := by
  have hn := nnn.isLt
  have hv := v0.isLt
  rw [indexedTarget_toNat]
  omega

theorem Effect.skipIf (c : Bool) (hi : MovesPc i) : Effect i s (s.skipIf c) := by
  refine .jumps _ hi fun _ hpc => ?_
  split <;> bv_omega

theorem Effect.toAddress (nnn : BitVec 12) (hi : MovesPc i) : Effect i s (s.setPc (addressOf nnn)) :=
  .jumps _ hi fun _ _ => (addressOf_le nnn).trans (by decide)

variable (i s) in
/-- Every instruction answers a next state, and only what its effect says is new in it. -/
theorem exec_effect : ∃ t, exec i s = .next t ∧ Effect i s t := by
  cases i with
  | cls => exact ⟨_, rfl, .clears rfl⟩
  | ret =>
    obtain ⟨-, h⟩ | ⟨hsp, h⟩ := exec_ret_cases s
    · exact ⟨_, h, .halts _ _ (.inr (.inr (.inl rfl)))⟩
    · exact ⟨_, h, .returns rfl hsp⟩
  | sys nnn =>
    have hi : MovesPc (.sys nnn) := .inl ⟨nnn, .inl rfl⟩
    obtain ⟨-, h⟩ | ⟨-, h⟩ | ⟨-, h⟩ := exec_sys_cases s nnn
    · exact ⟨_, h, .halts _ _ (.inl rfl)⟩
    · exact ⟨_, h, .jumps s.pc hi fun _ hpc => by omega⟩
    · exact ⟨_, h, .toAddress nnn hi⟩
  | jp nnn => exact ⟨_, rfl, .toAddress nnn (.inl ⟨nnn, .inr (.inl rfl)⟩)⟩
  | call nnn =>
    obtain ⟨-, h⟩ | ⟨hsp, h⟩ := exec_call_cases s nnn
    · exact ⟨_, h, .halts _ _ (.inr (.inl rfl))⟩
    · exact ⟨_, h, .calls nnn rfl hsp⟩
  | jpV0 nnn => exact ⟨_, rfl, .jumps _ (.inl ⟨nnn, .inr (.inr (.inr rfl))⟩) fun _ _ => indexedTarget_le nnn _⟩
  | seImm x kk => exact ⟨_, rfl, .skipIf _ (.inr (.inl ⟨x, kk, .inl rfl⟩))⟩
  | sneImm x kk => exact ⟨_, rfl, .skipIf _ (.inr (.inl ⟨x, kk, .inr rfl⟩))⟩
  | seReg x y => exact ⟨_, rfl, .skipIf _ (.inr (.inr (.inl ⟨x, y, .inl rfl⟩)))⟩
  | sneReg x y => exact ⟨_, rfl, .skipIf _ (.inr (.inr (.inl ⟨x, y, .inr rfl⟩)))⟩
  | skp x => exact ⟨_, rfl, .skipIf _ (.inr (.inr (.inr ⟨x, .inl rfl⟩)))⟩
  | sknp x => exact ⟨_, rfl, .skipIf _ (.inr (.inr (.inr ⟨x, .inr (.inl rfl)⟩)))⟩
  | ldVxKey x =>
    obtain ⟨-, h⟩ | ⟨k, -, -, -, h⟩ := exec_ldVxKey_cases s x
    · exact ⟨_, h, .jumps _ (.inr (.inr (.inr ⟨x, .inr (.inr rfl)⟩))) fun hlow hpc => by rw [State.pc0]; bv_omega⟩
    · exact ⟨_, h, .setReg _ fun _ => rfl⟩
  | ldImm x kk => exact ⟨_, rfl, .setReg _ fun _ => rfl⟩
  | addImm x kk => exact ⟨_, rfl, .setReg _ fun _ => rfl⟩
  | ldReg x y => exact ⟨_, rfl, .setReg _ fun _ => rfl⟩
  | orReg x y => exact ⟨_, rfl, .setReg _ fun _ => rfl⟩
  | andReg x y => exact ⟨_, rfl, .setReg _ fun _ => rfl⟩
  | xorReg x y => exact ⟨_, rfl, .setReg _ fun _ => rfl⟩
  | rnd x kk => exact ⟨_, rfl, .setReg _ fun _ => rfl⟩
  | ldVxDt x => exact ⟨_, rfl, .setReg _ fun _ => rfl⟩
  | addReg x y => exact ⟨_, rfl, .setResultAndFlag _ _ fun _ => rfl⟩
  | sub x y => exact ⟨_, rfl, .setResultAndFlag _ _ fun _ => rfl⟩
  | shr x y => exact ⟨_, rfl, .setResultAndFlag _ _ fun _ => rfl⟩
  | subn x y => exact ⟨_, rfl, .setResultAndFlag _ _ fun _ => rfl⟩
  | shl x y => exact ⟨_, rfl, .setResultAndFlag _ _ fun _ => rfl⟩
  | ldI nnn => exact ⟨_, rfl, .index _ (.inl ⟨nnn, rfl⟩)⟩
  | addI x => exact ⟨_, rfl, .index _ (.inr (.inl ⟨x, rfl⟩))⟩
  | ldFont x => exact ⟨_, rfl, .index _ (.inr (.inr ⟨x, rfl⟩))⟩
  | ldDtVx x => exact ⟨_, rfl, .delay _ ⟨x, rfl⟩⟩
  | ldStVx x => exact ⟨_, rfl, .sound _ ⟨x, rfl⟩⟩
  | drw x y n =>
    obtain ⟨-, -, h⟩ | ⟨-, fb, f, -, h⟩ := exec_drw_cases s x y n
    · exact ⟨_, h, .memoryFault⟩
    · exact ⟨_, h, .draws fb f ⟨x, y, n, rfl⟩⟩
  | ldBcd x =>
    obtain ⟨-, h⟩ | ⟨hin, h⟩ := exec_ldBcd_cases s x
    · exact ⟨_, h, .memoryFault⟩
    · exact ⟨_, h, .stores _ rfl hin⟩
  | ldMemVx x =>
    obtain ⟨-, h⟩ | ⟨hin, h⟩ := exec_ldMemVx_cases s x
    · exact ⟨_, h, .memoryFault⟩
    · exact ⟨_, h, .stores _ (s.regsUpTo_length x) (by rwa [s.regsUpTo_length x])⟩
  | ldVxMem x =>
    obtain ⟨-, h⟩ | ⟨-, h⟩ := exec_ldVxMem_cases s x
    · exact ⟨_, h, .memoryFault⟩
    · refine ⟨_, h, .registers _ fun z hz => (s.reg_loaded x (s.ea 0) z).trans (if_neg ?_)⟩
      simpa [writesReg] using hz

theorem Effect.of_exec (h : exec i s = .next t) : Effect i s t := by
  obtain ⟨u, hu, heff⟩ := exec_effect i s
  rw [h] at hu
  cases hu
  exact heff

/-- An instruction keeps the halt registers or only halts (60_exceptions.md R206). -/
theorem Effect.halt_or_keep (h : Effect i s t) :
    (t.run = s.run ∧ t.haltCause = s.haltCause ∧ t.haltInfo = s.haltInfo) ∨
      ∃ c info, t = s.halt c info ∧ HaltCause.OfExec c := by
  cases h with
  | halts c info hc => exact .inr ⟨c, info, rfl, hc⟩
  | _ => exact .inl ⟨rfl, rfl, rfl⟩

/-- No instruction reaches the scheduler, the outputs, the parameters or the inputs. -/
theorem Effect.scheduler_frame (h : Effect i s t) :
    t.romCnt = s.romCnt ∧ t.cntInstr = s.cntInstr ∧ t.cntTimer = s.cntTimer ∧ t.fbValid = s.fbValid ∧
      t.fbData = s.fbData ∧ t.retire = s.retire ∧ t.retireWord = s.retireWord ∧ t.params = s.params ∧ t.env = s.env := by
  cases h <;> exact ⟨rfl, rfl, rfl, rfl, rfl, rfl, rfl, rfl, rfl⟩

end

end Sys2Proof.Machine
end

section
/-! The obligations of the frames (10_state.md R46). -/

open Sys2Proof Sys2Proof.Machine

/-- Settles O36: the effects on registers are the loads, bounded by `writesReg`, and the draw, which writes `VF`. -/
theorem registerFrame : Obligations.RegisterFrame := by
  intro i s t h z hz
  cases Effect.of_exec h with
  | registers v hv => exact hv z hz
  | draws fb f hi =>
    obtain ⟨x, y, n, rfl⟩ := hi
    exact (s.setFb fb).reg_setReg_of_ne _ (by simpa [writesReg] using hz)
  | _ => rfl

/-- Settles O37: the one effect on memory is a run of writes from `EA(0)`. -/
theorem memoryFrame : Obligations.MemoryFrame := by
  intro i s t h a ha
  cases Effect.of_exec h with
  | stores bs hlen _ => exact s.mem.read_writeBytes_other (hlen ▸ ha)
  | _ => rfl

/-- Settles O38: each effect writes one of these parts, the call and the return the stack's with the pc, and names the
instructions that have it. -/
theorem specialStateFrame : Obligations.SpecialStateFrame := by
  intro i s t h
  cases Effect.of_exec h with
  | index a hi => exact ⟨.inr hi, .inl rfl, .inl rfl, .inl rfl, .inl rfl, .inl rfl, .inl rfl⟩
  | delay b hi => exact ⟨.inl rfl, .inl rfl, .inl rfl, .inr hi, .inl rfl, .inl rfl, .inl rfl⟩
  | sound b hi => exact ⟨.inl rfl, .inl rfl, .inl rfl, .inl rfl, .inr hi, .inl rfl, .inl rfl⟩
  | clears hi => exact ⟨.inl rfl, .inl rfl, .inl rfl, .inl rfl, .inl rfl, .inr (.inl hi), .inl rfl⟩
  | draws fb f hi => exact ⟨.inl rfl, .inl rfl, .inl rfl, .inl rfl, .inl rfl, .inr (.inr hi), .inl rfl⟩
  | jumps a hi _ => exact ⟨.inl rfl, .inl rfl, .inl rfl, .inl rfl, .inl rfl, .inl rfl, .inr (.inr hi)⟩
  | calls nnn hi _ =>
    exact ⟨.inl rfl, .inr ⟨nnn, hi⟩, .inr (.inr ⟨nnn, hi⟩), .inl rfl, .inl rfl, .inl rfl,
      .inr (.inr (.inl ⟨nnn, .inr (.inr (.inl hi))⟩))⟩
  | returns hi _ => exact ⟨.inl rfl, .inl rfl, .inr (.inl hi), .inl rfl, .inl rfl, .inl rfl, .inr (.inl hi)⟩
  | halts | registers | stores => exact ⟨.inl rfl, .inl rfl, .inl rfl, .inl rfl, .inl rfl, .inl rfl, .inl rfl⟩

/-- Settles O39: no effect reaches the scheduler's state, and the only one on the halt registers is a halt. -/
theorem schedulerStateFrame : Obligations.SchedulerStateFrame := by
  intro i s t h
  have heff := Effect.of_exec h
  obtain ⟨hrom, hci, hct, hfv, hfd, hr, hrw, hp, he⟩ := heff.scheduler_frame
  refine ⟨hrom, hci, hct, hfv, hfd, hr, hrw, hp, he, heff.halt_or_keep.imp_right ?_⟩
  rintro ⟨c, info, rfl, hc⟩
  exact ⟨rfl, hc⟩

end

section
/-! The rules of the remaining flow instructions, branch by branch (40_flow.md R120, R121, R123, R124, R127, R128). -/

namespace Sys2Proof.Machine

variable {s : State} {nnn : BitVec 12}

theorem exec_ret_empty (h : s.sp.val = 0) : exec .ret s = .next (s.halt .stackUnderflow s.pc0) := by
  obtain ⟨-, e⟩ | ⟨hpos, -⟩ := exec_ret_cases s
  · exact e
  · omega

theorem exec_ret_pop (h : 0 < s.sp.val) : exec .ret s =
    .next { s with sp := ⟨s.sp.val - 1, by omega⟩, pc := s.stack[s.sp.val - 1] } := by
  obtain ⟨hempty, -⟩ | ⟨_, e⟩ := exec_ret_cases s
  · omega
  · exact e

theorem exec_call_full (h : s.sp.val = 16) : exec (.call nnn) s = .next (s.halt .stackOverflow s.pc0) := by
  obtain ⟨-, e⟩ | ⟨hroom, -⟩ := exec_call_cases s nnn
  · exact e
  · omega

theorem exec_call_push (h : s.sp.val < 16) : exec (.call nnn) s = .next { s with
    stack := s.stack.set s.sp.val s.pc, sp := ⟨s.sp.val + 1, by omega⟩, pc := addressOf nnn } := by
  obtain ⟨hfull, -⟩ | ⟨_, e⟩ := exec_call_cases s nnn
  · omega
  · exact e

theorem exec_sys_fault (h : s.params.sysPolicy = .fault) :
    exec (.sys nnn) s = .next (s.halt .sysUnsupported (addressOf nnn)) := by rw [exec, execSys, h]

theorem exec_sys_ignore (h : s.params.sysPolicy = .ignore) : exec (.sys nnn) s = .next s := by rw [exec, execSys, h]

theorem exec_sys_jump (h : s.params.sysPolicy = .jump) : exec (.sys nnn) s = .next (s.setPc (addressOf nnn)) := by
  rw [exec, execSys, h]

/-- The word a refused machine-routine operation reports is its own. -/
theorem addressOf_eq_encode_sys (nnn : BitVec 12) : addressOf nnn = encode (.sys nnn) :=
  BitVec.setWidth_eq_append (by decide)

theorem exec_jpV0 (nnn : BitVec 12) (s : State) :
    exec (.jpV0 nnn) s = .next (s.setPc (indexedTarget nnn (s.reg 0))) := rfl

theorem exec_seReg (x y : Reg) (s : State) :
    exec (.seReg x y) s = .next { s with pc := if s.reg x = s.reg y then s.pc + 2#16 else s.pc } :=
  congrArg _ (s.skipIf_beq (s.reg x) (s.reg y))

theorem exec_sneReg (x y : Reg) (s : State) :
    exec (.sneReg x y) s = .next { s with pc := if s.reg x = s.reg y then s.pc else s.pc + 2#16 } :=
  congrArg _ (s.skipIf_bne (s.reg x) (s.reg y))

end Sys2Proof.Machine
end

section
/-! The obligations of the remaining flow instructions (40_flow.md). -/

open Sys2Proof Sys2Proof.Machine

/-- Settles O7: row 3 takes the class but the two exact words, and the policy selects one of three effects. -/
theorem sysFollowsPolicy : Obligations.SysFollowsPolicy := by
  refine ⟨fun w => decode_sys, fun nnn s => ⟨fun h => ?_, exec_sys_ignore, fun h => ?_⟩⟩
  · rw [exec_sys_fault h, addressOf_eq_encode_sys]
    rfl
  · exact ⟨s.setPc (addressOf nnn), exec_sys_jump h, addressOf_toNat nnn, rfl⟩

/-- Settles O8: row 2 is the exact word, and the pop is guarded by SP alone. -/
theorem returnPops : Obligations.ReturnPops := by
  refine ⟨decode_of_selects 1 (by decide) rfl, fun s => ⟨exec_ret_empty, fun h => ?_⟩⟩
  refine ⟨_, exec_ret_pop h, rfl, fun j hj => ?_, rfl⟩
  simp only [hj]

/-- Settles O9: row 5 decodes its whole class, and the push writes the slot at SP and no other. -/
theorem callPushes : Obligations.CallPushes := by
  refine ⟨fun w hw => decode_of_selects 4 (by decide) hw, fun nnn s => ⟨exec_call_full, fun h => ?_⟩⟩
  refine ⟨_, exec_call_push h, rfl, addressOf_toNat nnn, fun j => ?_, rfl⟩
  simp only [Vector.getElem_set, eq_comm]

/-- Settles O10: the call left its pushed pc in the slot below the new SP, which is the slot a return reads. -/
theorem returnGoesAfterTheCall : Obligations.ReturnGoesAfterTheCall := by
  intro nnn s t u hsp hcall hstack husp
  rw [exec_call_push hsp] at hcall
  cases hcall
  have hpos : 0 < u.sp.val := by rw [husp]; exact Nat.succ_pos _
  refine ⟨_, exec_ret_pop hpos, ?_, ?_⟩
  · simp [hstack, husp]
  · simp [husp]

/-- Settles O12: row 22 decodes its whole class, and the sum is at most 4095 + 255, so it does not wrap. -/
theorem indexedJumpSetsPc : Obligations.IndexedJumpSetsPc := by
  refine ⟨fun w hw => decode_of_selects 21 (by decide) hw, fun nnn s => ?_⟩
  have hle := indexedTarget_le nnn (s.reg 0)
  refine ⟨_, exec_jpV0 nnn s, ?_, hle, rfl⟩
  rw [indexedTarget_toNat] at hle
  rw [State.setPc_pc, indexedTarget_toNat, Nat.mod_eq_of_lt (by omega)]

/-- Settles O14: rows 8 and 20 decode their whole patterns, and their tests are an equality and its negation. -/
theorem skipsOnRegister : Obligations.SkipsOnRegister :=
  ⟨fun w hw => decode_of_selects 7 (by decide) hw, fun w hw => decode_of_selects 19 (by decide) hw,
    fun x y s => ⟨exec_seReg x y s, exec_sneReg x y s⟩⟩

end

section
/-! The rules of the remaining register instructions: one write bit by bit, and the shifts (41_alu.md R141, R143 to R145,
R148, R150, R151). -/

namespace Sys2Proof.Machine

variable (s : State) (x y : Reg) (kk : Byte)

theorem exec_addImm : exec (.addImm x kk) s = .next (s.setReg x (s.reg x + kk)) := rfl

theorem exec_orReg : exec (.orReg x y) s = .next (s.setReg x (s.reg x ||| s.reg y)) := rfl

theorem exec_andReg : exec (.andReg x y) s = .next (s.setReg x (s.reg x &&& s.reg y)) := rfl

theorem exec_xorReg : exec (.xorReg x y) s = .next (s.setReg x (s.reg x ^^^ s.reg y)) := rfl

theorem exec_rnd : exec (.rnd x kk) s = .next (s.setReg x (s.env.now.rnd &&& kk)) := rfl

theorem exec_shr : exec (.shr x y) s =
    .next (s.setResultAndFlag x (s.reg x >>> 1) (shiftedOutRight (s.reg x))) := rfl

theorem exec_shl : exec (.shl x y) s =
    .next (s.setResultAndFlag x (s.reg x <<< 1) (shiftedOutLeft (s.reg x))) := rfl

theorem shiftedOutRight_toNat (a : Byte) : (shiftedOutRight a).toNat = a.toNat % 2 := by
  have : a.toNat < 256 := a.isLt
  rw [shiftedOutRight, BitVec.getLsbD, Nat.toNat_testBit]
  omega

theorem shiftedOutLeft_toNat (a : Byte) : (shiftedOutLeft a).toNat = a.toNat / 128 := by
  have : a.toNat < 256 := a.isLt
  rw [shiftedOutLeft, BitVec.getLsbD, Nat.toNat_testBit]
  omega

theorem shiftRight_one_toNat (a : Byte) : (a >>> 1).toNat = a.toNat / 2 := by
  rw [BitVec.toNat_ushiftRight, Nat.shiftRight_eq_div_pow]

theorem shiftLeft_one_toNat (a : Byte) : (a <<< 1).toNat = a.toNat * 2 % 256 := by
  rw [BitVec.toNat_shiftLeft, Nat.shiftLeft_eq]

variable {s x} {i : Instr}

/-- The logic operations and the random byte do this, each with its own bits (R143 to R145, R151). -/
theorem bits_of_exec_eq {b : Byte} {bit : Nat → Bool} (h : exec i s = .next (s.setReg x b))
    (hb : ∀ k, b.getLsbD k = bit k) :
    ∃ t, exec i s = .next t ∧ (∀ k, (t.reg x).getLsbD k = bit k) ∧ (∀ z, z ≠ x → t.reg z = s.reg z) ∧
      t = { s with v := t.v } :=
  ⟨_, h, fun k => by rw [s.reg_setReg_same, hb], fun _ hz => s.reg_setReg_of_ne b hz, rfl⟩

/-- Both shifts do this, each with its own result and bit shifted out (R148, R150). -/
theorem shift_of_exec_eq {b : Byte} {f : Bool} {result out : Nat} (h : exec i s = .next (s.setResultAndFlag x b f))
    (hb : b.toNat = result) (hf : f.toNat = out) :
    ∃ t, exec i s = .next t ∧ (x ≠ 15 → (t.reg x).toNat = result) ∧ (t.reg 15).toNat = out ∧
      (∀ z, z ≠ x → z ≠ 15 → t.reg z = s.reg z) ∧ t = { s with v := t.v } := by
  refine ⟨_, h, fun hx => ?_, ?_, fun z hzx hzf => s.reg_setResultAndFlag_of_ne _ _ hzx hzf, rfl⟩
  · rw [s.reg_setResultAndFlag_result _ _ hx, hb]
  · rw [s.reg_setResultAndFlag, if_pos rfl, ← hf]
    cases f <;> rfl

end Sys2Proof.Machine
end

section
/-! The obligations of the remaining register instructions (41_alu.md). -/

open Sys2Proof Sys2Proof.Machine

/-- Settles O16: row 10 decodes its whole class, and the add is one register write. -/
theorem immediateAdd : Obligations.ImmediateAdd :=
  ⟨fun w hw => decode_of_selects 9 (by decide) hw, fun x kk s => ⟨_, exec_addImm s x kk,
    by rw [s.reg_setReg_same, BitVec.toNat_add], fun _ hz => s.reg_setReg_of_ne _ hz, rfl⟩⟩

/-- Settles O18: rows 12 to 14 decode their whole patterns, and each operation is one register write. -/
theorem bitwiseLogic : Obligations.BitwiseLogic :=
  ⟨fun w hw => decode_of_selects 11 (by decide) hw, fun w hw => decode_of_selects 12 (by decide) hw,
    fun w hw => decode_of_selects 13 (by decide) hw, fun x y s =>
    ⟨bits_of_exec_eq (exec_orReg s x y) fun _ => BitVec.getLsbD_or,
      bits_of_exec_eq (exec_andReg s x y) fun _ => BitVec.getLsbD_and,
      bits_of_exec_eq (exec_xorReg s x y) fun _ => BitVec.getLsbD_xor⟩⟩

/-- Settles O21: rows 17 and 19 decode their whole patterns, y included, and the two shifts are one rule. -/
theorem shiftsInPlace : Obligations.ShiftsInPlace :=
  ⟨fun w hw => decode_of_selects 16 (by decide) hw, fun w hw => decode_of_selects 18 (by decide) hw, fun x y s =>
    ⟨shift_of_exec_eq (exec_shr s x y) (shiftRight_one_toNat _) (shiftedOutRight_toNat _),
      shift_of_exec_eq (exec_shl s x y) (shiftLeft_one_toNat _) (shiftedOutLeft_toNat _)⟩⟩

/-- Settles O22: row 23 decodes its whole class, and the input byte goes through the mask into one register. -/
theorem randomAndImmediate : Obligations.RandomAndImmediate :=
  ⟨fun w hw => decode_of_selects 22 (by decide) hw, fun x kk s =>
    bits_of_exec_eq (exec_rnd s x kk) fun _ => BitVec.getLsbD_and⟩

end

section
/-! The rules of the index instructions and of the transfers, the bad range and the good one (42_index_memory.md R161 to
R166). -/

namespace Sys2Proof.Machine

variable {s : State} {x : Reg}

theorem exec_addI (x : Reg) (s : State) : exec (.addI x) s = .next (s.setI (s.i + wordOf (s.reg x))) := rfl

theorem exec_ldFont (x : Reg) (s : State) : exec (.ldFont x) s = .next (s.setI (glyphAddress (s.reg x))) := rfl

theorem wordOf_toNat (b : Byte) : (wordOf b).toNat = b.toNat := BitVec.toNat_setWidth_of_le (by decide)

theorem glyphAddress_toNat (b : Byte) : (glyphAddress b).toNat = 5 * b.toNat := by
  have := b.isLt
  rw [glyphAddress, BitVec.toNat_mul, wordOf_toNat]
  exact Nat.mod_eq_of_lt (by simp only [BitVec.toNat_ofNat]; omega)

theorem exec_ldBcd (x : Reg) (s : State) : exec (.ldBcd x) s =
    .next (s.transfer s.i.toNat 3 (s.setMem (s.mem.writeBytes s.i.toNat (decimalDigits (s.reg x))))) := rfl

theorem exec_ldMemVx (x : Reg) (s : State) : exec (.ldMemVx x) s =
    .next (s.transfer s.i.toNat (x.val + 1) (s.setMem (s.mem.writeBytes s.i.toNat (s.regsUpTo x)))) := rfl

theorem exec_ldVxMem (x : Reg) (s : State) : exec (.ldVxMem x) s =
    .next (s.transfer s.i.toNat (x.val + 1) (s.setRegs (s.loadedRegs x s.i.toNat))) := rfl

/-- An instruction that transfers bytes is a transfer of as many from `I` on, whose good outcome keeps the run state and
`I` (R164 to R166). -/
theorem exec_eq_transfer {i : Instr} (h : 0 < transferBytes i) : ∃ done : State,
    exec i s = .next (s.transfer s.i.toNat (transferBytes i) done) ∧ done.run = s.run ∧ done.i = s.i := by
  cases i with
  | ldBcd x => exact ⟨_, exec_ldBcd x s, rfl, rfl⟩
  | ldMemVx x => exact ⟨_, exec_ldMemVx x s, rfl, rfl⟩
  | ldVxMem x => exact ⟨s.setRegs (s.loadedRegs x s.i.toNat), exec_ldVxMem x s, s.setRegs_run _, s.setRegs_i _⟩
  | drw x y n => exact ⟨_, rfl, rfl, rfl⟩
  | _ => cases h

/-- Inside a run of writes each cell reads as its byte of the run. -/
theorem Memory.read_writeBytes_at {m : Memory} {a k : Nat} {bs : List Byte} (hm : m.wf = true)
    (h : a + bs.length ≤ lastAddress + 1) (hk : k < bs.length) : (m.writeBytes a bs).read (a + k) = bs[k] := by
  rw [Memory.read_writeBytes hm h, dif_pos (by omega)]
  simp only [Nat.add_sub_cancel_left]

/-- What a block store of registers 0 to x leaves in its cells (R164). -/
theorem read_blockStore (hm : s.mem.wf = true) (hin : s.i.toNat + x.val ≤ 4095) {k : Reg} (hk : k ≤ x) :
    (s.mem.writeBytes s.i.toNat (s.regsUpTo x)).read (s.i.toNat + k.val) = s.reg k := by
  have hlen := s.regsUpTo_length x
  rw [Memory.read_writeBytes_at hm (hlen ▸ Nat.succ_le_succ hin) (hlen ▸ Nat.lt_succ_of_le hk), s.regsUpTo_get]

/-- A word of memory has its first byte high (20_memory.md R64). -/
theorem Memory.readWord_toNat (m : Memory) (a : Nat) :
    (m.readWord a).toNat = (m.read a).toNat * 256 + (m.read (a + 1)).toNat := by
  rw [Memory.readWord, BitVec.toNat_append, ← Nat.shiftLeft_add_eq_or_of_lt (m.read (a + 1)).isLt, Nat.shiftLeft_eq]

end Sys2Proof.Machine
end

section
/-! The obligations of the index register and the memory transfers (42_index_memory.md). -/

open Sys2Proof Sys2Proof.Machine

/-- Settles O24: rows 31 and 32 decode their whole patterns; the first sum wraps, the product of a byte by 5 cannot. -/
theorem indexAddAndFont : Obligations.IndexAddAndFont := by
  refine ⟨fun w hw => decode_of_selects 30 (by decide) hw, fun w hw => decode_of_selects 31 (by decide) hw, fun x s =>
    ⟨⟨_, exec_addI x s, ?_, rfl⟩, ⟨_, exec_ldFont x s, glyphAddress_toNat _, rfl⟩⟩⟩
  rw [State.setI_i, BitVec.toNat_add, wordOf_toNat]

/-- Settles O25: row 33 decodes its whole pattern, and the range check of three bytes decides between the halt and three
writes. -/
theorem decimalDigits : Obligations.DecimalDigits := by
  refine ⟨fun w hw => decode_of_selects 32 (by decide) hw, fun x s => ⟨fun hbad => ?_, fun hm hin => ?_⟩⟩
  · rw [exec_ldBcd, State.transfer_bad (by decide) (by omega)]
    rfl
  · have hlen : (Machine.decimalDigits (s.reg x)).length = 3 := rfl
    have hcell (k : Nat) (hk : k < 3) := Memory.read_writeBytes_at hm (bs := Machine.decimalDigits (s.reg x))
      (Nat.succ_le_succ hin) hk
    have hbyte := (s.reg x).isLt
    rw [exec_ldBcd, State.transfer_good (.inr (by omega))]
    refine ⟨_, rfl, ?_, ?_, ?_, fun a ha => s.mem.read_writeBytes_other (by omega), rfl⟩
    · exact (congrArg BitVec.toNat (hcell 0 (by decide))).trans (Nat.mod_eq_of_lt (by omega))
    · exact (congrArg BitVec.toNat (hcell 1 (by decide))).trans (Nat.mod_eq_of_lt (by omega))
    · exact (congrArg BitVec.toNat (hcell 2 (by decide))).trans (Nat.mod_eq_of_lt (by omega))

/-- Settles O26: row 34 decodes its whole pattern, and the range check of x + 1 bytes decides between the halt and as many
writes. -/
theorem blockStore : Obligations.BlockStore := by
  refine ⟨fun w hw => decode_of_selects 33 (by decide) hw, fun x s => ⟨fun hbad => ?_, fun hm hin => ?_⟩⟩
  · rw [exec_ldMemVx, State.transfer_bad (Nat.succ_pos _) (by omega)]
    rfl
  · rw [exec_ldMemVx, State.transfer_good (.inr (by omega))]
    refine ⟨_, rfl, fun k => read_blockStore hm hin, fun a ha => s.mem.read_writeBytes_other ?_, rfl⟩
    rw [s.regsUpTo_length]
    omega

/-- Settles O27: row 35 decodes its whole pattern, and the range check of x + 1 bytes decides between the halt and the
load. -/
theorem blockLoad : Obligations.BlockLoad := by
  refine ⟨fun w hw => decode_of_selects 34 (by decide) hw, fun x s => ⟨fun hbad => ?_, fun hin => ?_⟩⟩
  · rw [exec_ldVxMem, State.transfer_bad (Nat.succ_pos _) (by omega)]
    rfl
  · rw [exec_ldVxMem, State.transfer_good (.inr (by omega))]
    refine ⟨_, rfl, fun k hk => ?_, fun z hz => ?_, rfl⟩
    · rw [s.reg_loaded, if_pos hk]
    · rw [s.reg_loaded, if_neg (not_le.2 hz)]

/-- Settles O29: the two cells hold the two registers, and the fetch puts the first over the second. -/
theorem storeSeenByFetch : Obligations.StoreSeenByFetch := by
  intro x k s t u hm hin hexec hk hmem hpc k' hk'
  rw [exec_ldMemVx, State.transfer_good (.inr (by omega))] at hexec
  cases hexec
  have hkx : k.val < x.val := hk
  have hlow := read_blockStore hm hin hk.le
  have hhigh := read_blockStore hm hin (k := k') (by rw [Fin.le_def]; omega)
  rw [hk', ← Nat.add_assoc] at hhigh
  rw [State.fetchedWord, Memory.readWord_toNat, hmem, hpc, State.setMem_mem, hlow, hhigh]

/-- Settles O28: the four instructions that transfer a byte all go through the one range check. -/
theorem transfersCheckFirst : Obligations.TransfersCheckFirst := by
  intro i s hpos
  obtain ⟨done, hexec, hrun, hi⟩ := exec_eq_transfer hpos
  refine ⟨fun hbad => ?_, fun hin => ⟨done, ?_, hrun, hi⟩, fun _ => rfl⟩
  · rw [State.ea] at hbad
    rw [hexec, State.transfer_bad hpos (by omega)]
    rfl
  · rw [State.ea] at hin
    rw [hexec, State.transfer_good (.inr (by omega))]

end

section
/-! The rules of the sprite draw: what it leaves in each pixel and in the flag (43_display.md R171 to R173). -/

namespace Sys2Proof.Machine

variable {s : State} {x y : Reg} {n : Fin 16}

/-- A sprite of n rows lies in the memory. -/
def State.SpriteInRange (s : State) (n : Fin 16) : Prop := n.val = 0 ∨ s.i.toNat + n.val - 1 ≤ 4095

/-- The pixels the draw turns, in its order. -/
def State.drawnPixels (s : State) (x y : Reg) (n : Fin 16) : List (Fin 32 × Fin 64) :=
  s.spritePixels (s.reg x) (s.reg y) n.val

/-- The framebuffer and the flag the draw makes. -/
def State.drawn (s : State) (x y : Reg) (n : Fin 16) : Framebuffer × Bool := blit (s.drawnPixels x y n) s.fb false

theorem exec_drw (x y : Reg) (n : Fin 16) (s : State) : exec (.drw x y n) s =
    .next (s.transfer s.i.toNat n.val ((s.setFb (s.drawn x y n).1).setFlag (s.drawn x y n).2)) := rfl

theorem exec_drw_bad (hn : 0 < n.val) (h : 4095 < s.i.toNat + n.val - 1) : exec (.drw x y n) s =
    .next (s.halt .memoryOutOfRange (BitVec.ofNat 16 (max s.i.toNat 4096))) := by
  rw [exec_drw, State.transfer_bad hn (by omega)]

theorem exec_drw_good (h : s.SpriteInRange n) :
    exec (.drw x y n) s = .next ((s.setFb (s.drawn x y n).1).setFlag (s.drawn x y n).2) := by
  rw [exec_drw, State.transfer_good (h.imp_right fun _ => by omega)]

theorem State.nodup_drawnPixels : (s.drawnPixels x y n).Nodup :=
  s.nodup_spritePixels _ _ (by omega)

theorem State.spriteCovers_iff {r : Fin 32} {c : Fin 64} :
    s.spriteCovers (s.reg x) (s.reg y) n.val r c ↔ (r, c) ∈ s.drawnPixels x y n := by
  simp only [State.spriteCovers, State.drawnPixels, State.mem_spritePixels, spriteBit, State.ea, pixelRow, pixelColumn,
    Fin.ext_iff, Fin.val_ofNat]

/-- The draw turns each pixel it names once, and no other. -/
theorem State.pixel_drawn (r : Fin 32) (c : Fin 64) :
    (s.drawn x y n).1.pixel r c = (s.fb.pixel r c ^^ decide ((r, c) ∈ s.drawnPixels x y n)) := by
  rw [State.drawn, pixel_blit, State.nodup_drawnPixels.count]
  by_cases h : (r, c) ∈ s.drawnPixels x y n <;> simp [h]

/-- The draw's flag is 1 exactly when it turned a set pixel off. -/
theorem State.flag_drawn : (s.drawn x y n).2 = true ↔
    ∃ r c, s.fb.pixel r c = true ∧ (s.drawn x y n).1.pixel r c = false := by
  rw [State.drawn, flag_blit _ _ _ State.nodup_drawnPixels, ← State.drawn]
  constructor
  · rintro (h | ⟨⟨r, c⟩, hmem, hset⟩)
    · cases h
    · exact ⟨r, c, hset, by rw [State.pixel_drawn]; simp [hmem, hset]⟩
  · rintro ⟨r, c, hset, hoff⟩
    rw [State.pixel_drawn, hset] at hoff
    exact .inr ⟨(r, c), by simpa using hoff, hset⟩

/-- What the draw leaves in `VF`. -/
theorem State.reg_draw_vf (fb : Framebuffer) (f : Bool) : ((s.setFb fb).setFlag f).reg 15 = if f then 1#8 else 0#8 :=
  (s.setFb fb).reg_setReg_same vf _

/-- The draw's flag in `VF`, by the pixels before it and after it. -/
theorem State.reg_drawn_vf :
    let t := (s.setFb (s.drawn x y n).1).setFlag (s.drawn x y n).2
    ((∃ r c, s.fb.pixel r c = true ∧ t.fb.pixel r c = false) → t.reg 15 = 1#8) ∧
      ((∀ r c, s.fb.pixel r c = true → t.fb.pixel r c = true) → t.reg 15 = 0#8) := by
  intro t
  refine ⟨fun h => ?_, fun h => ?_⟩
  · rw [State.reg_draw_vf, if_pos (State.flag_drawn.2 h)]
  · rw [State.reg_draw_vf, if_neg fun hflag => ?_]
    obtain ⟨r, c, hset, hoff⟩ := State.flag_drawn.1 hflag
    exact absurd (h r c hset) (by rw [State.setFlag_fb, State.setFb_fb, hoff]; decide)

/-- The state after a draw that is no fault, its pc anywhere: what a second draw with the same operands starts from. -/
def State.redrawFrom (s : State) (x y : Reg) (n : Fin 16) (pc : Word) : State :=
  { (s.setFb (s.drawn x y n).1).setFlag (s.drawn x y n).2 with pc := pc }

/-- A draw leaves its own operands but `VF`, so a second one names the same pixels (R172). -/
theorem State.drawnPixels_redrawFrom (hx : x ≠ 15) (hy : y ≠ 15) (pc : Word) :
    (s.redrawFrom x y n pc).drawnPixels x y n = s.drawnPixels x y n := by
  have hreg {z : Reg} (hz : z ≠ 15) : (s.redrawFrom x y n pc).reg z = s.reg z := (s.setFb _).reg_setReg_of_ne _ hz
  rw [State.drawnPixels, hreg hx, hreg hy]
  rfl

theorem State.drawn_redrawFrom (hx : x ≠ 15) (hy : y ≠ 15) (pc : Word) :
    ((s.redrawFrom x y n pc).drawn x y n).1 = s.fb := by
  refine Framebuffer.ext fun r c => ?_
  have hfb : (s.redrawFrom x y n pc).fb.pixel r c = (s.drawn x y n).1.pixel r c := rfl
  rw [State.pixel_drawn, State.drawnPixels_redrawFrom hx hy, hfb, State.pixel_drawn, Bool.xor_assoc, Bool.xor_self,
    Bool.xor_false]

end Sys2Proof.Machine
end

section
/-! The obligations of the sprite draw (43_display.md). -/

open Sys2Proof Sys2Proof.Machine

/-- Settles O31: row 24 decodes its whole class; the draw names each pixel under a 1 bit once, so it turns exactly those,
and its flag says whether one of them was set. -/
theorem spriteDraw : Obligations.SpriteDraw := by
  refine ⟨fun w hw => decode_of_selects 23 (by decide) hw, fun x y n s => ⟨exec_drw_bad, fun hin => ?_⟩⟩
  obtain ⟨hset, hclear⟩ := State.reg_drawn_vf (s := s) (x := x) (y := y) (n := n)
  refine ⟨_, exec_drw_good hin, fun r c h => ?_, fun r c h => ?_, hset, hclear,
    fun z hz => (s.setFb _).reg_setReg_of_ne _ hz, rfl⟩
  · exact (State.pixel_drawn r c).trans (by simp [State.spriteCovers_iff.1 h])
  · exact (State.pixel_drawn r c).trans (by simp [State.spriteCovers_iff.not.1 h])

/-- Settles O32: the second draw names the same pixels as the first, so each is turned back, and its flag is that of a draw
from the framebuffer the first left. -/
theorem doubleDrawRestores : Obligations.DoubleDrawRestores := by
  intro x y n s t pc hx hy hin hexec
  rw [exec_drw_good hin] at hexec
  cases hexec
  have hback : ((s.redrawFrom x y n pc).drawn x y n).1 = s.fb := State.drawn_redrawFrom hx hy pc
  obtain ⟨hset, hclear⟩ := State.reg_drawn_vf (s := s.redrawFrom x y n pc) (x := x) (y := y) (n := n)
  rw [State.setFlag_fb, State.setFb_fb, hback] at hset hclear
  exact ⟨_, exec_drw_good (s := s.redrawFrom x y n pc) hin, hback, fun ⟨r, c, hoff, hon⟩ => hset ⟨r, c, hon, hoff⟩, hclear⟩

end

section
/-! The rules of the key instructions: the test of a whole byte, and the lowest key (44_keys_timers.md R180, R181, R183). -/

namespace Sys2Proof.Machine

variable {s : State} {x : Reg}

theorem exec_skp_of_iff {p : Prop} [Decidable p] (h : keyPressed s.keys (s.reg x) = true ↔ p) :
    exec (.skp x) s = .next { s with pc := if p then s.pc + 2#16 else s.pc } :=
  congrArg _ (s.skipIf_of_iff h)

theorem exec_sknp_of_iff {p : Prop} [Decidable p] (h : keyPressed s.keys (s.reg x) = true ↔ p) :
    exec (.sknp x) s = .next { s with pc := if p then s.pc else s.pc + 2#16 } := by
  have hnot : (!keyPressed s.keys (s.reg x)) = true ↔ ¬p := by rw [Bool.not_eq_true', ← Bool.not_eq_true, h]
  rw [← ite_not]
  exact congrArg _ (s.skipIf_of_iff hnot)

/-- Both key skips on a key that is held, and on one that is not. -/
theorem exec_keySkips_of_pressed (h : keyPressed s.keys (s.reg x) = true) :
    exec (.skp x) s = .next { s with pc := s.pc + 2#16 } ∧ exec (.sknp x) s = .next s := by
  have hiff : keyPressed s.keys (s.reg x) = true ↔ True := iff_true_intro h
  exact ⟨by simpa using exec_skp_of_iff hiff, by simpa using exec_sknp_of_iff hiff⟩

theorem exec_keySkips_of_not_pressed (h : keyPressed s.keys (s.reg x) = false) :
    exec (.skp x) s = .next s ∧ exec (.sknp x) s = .next { s with pc := s.pc + 2#16 } := by
  have hiff : keyPressed s.keys (s.reg x) = true ↔ False := by simp [h]
  exact ⟨by simpa using exec_skp_of_iff hiff, by simpa using exec_sknp_of_iff hiff⟩

theorem keyPressed_of_toNat_eq {keys : BitVec 16} {b : Byte} {k : Fin 16} (h : b.toNat = k.val) :
    keyPressed keys b = keys.getLsbD k.val := by
  simp [keyPressed, h]

theorem keyPressed_of_gt {keys : BitVec 16} {b : Byte} (h : 15 < b.toNat) : keyPressed keys b = false := by
  have : ¬b.toNat < 16 := by omega
  simp [keyPressed, this]

theorem exec_ldVxKey_none (h : lowestKey? s.keys = none) : exec (.ldVxKey x) s = .next (s.setPc s.pc0) := by
  rw [exec, execLdVxKey, h]

theorem exec_ldVxKey_some {k : Nat} (h : lowestKey? s.keys = some k) :
    exec (.ldVxKey x) s = .next (s.setReg x (BitVec.ofNat 8 k)) := by
  rw [exec, execLdVxKey, h]

end Sys2Proof.Machine
end

section
/-! The obligations of the key instructions (44_keys_timers.md). -/

open Sys2Proof Sys2Proof.Machine

/-- Settles O33: rows 25 and 26 decode their whole patterns, and both skips turn on one test of the whole byte. -/
theorem keySkips : Obligations.KeySkips := by
  refine ⟨fun w hw => decode_of_selects 24 (by decide) hw, fun w hw => decode_of_selects 25 (by decide) hw, fun x s =>
    ⟨fun k hk hheld => ?_, fun k hk hfree => ?_, fun hbig => ?_⟩⟩
  · exact exec_keySkips_of_pressed ((keyPressed_of_toNat_eq hk).trans hheld)
  · exact exec_keySkips_of_not_pressed ((keyPressed_of_toNat_eq hk).trans hfree)
  · exact exec_keySkips_of_not_pressed (keyPressed_of_gt hbig)

/-- Settles O34: row 28 decodes its whole pattern, and the wait turns on whether there is a lowest key. -/
theorem keyWait : Obligations.KeyWait := by
  refine ⟨fun w hw => decode_of_selects 27 (by decide) hw, fun x s => ⟨fun hnone => ?_, fun k hheld hlowest => ?_⟩⟩
  · have hkeys : s.keys = 0#16 := BitVec.eq_of_getLsbD_eq fun j hj =>
      (hnone ⟨j, hj⟩).trans BitVec.getLsbD_zero.symm
    exact exec_ldVxKey_none (lowestKey?_eq_none.2 hkeys)
  · have hlow : lowestKey? s.keys = some k.val :=
      lowestKey?_eq_some.2 ⟨k.isLt, hheld, fun j hj => hlowest ⟨j, hj.trans k.isLt⟩ hj⟩
    refine ⟨_, exec_ldVxKey_some hlow, ?_, fun _ hz => s.reg_setReg_of_ne _ hz, rfl⟩
    rw [s.reg_setReg_same]
    exact Nat.mod_eq_of_lt (by omega)

end

section
/-! What an instruction and an instruction step do not read: the scheduler's state, the outputs and, but for `SYS`'s policy
and the two inputs, the parameters and the environment. -/

namespace Sys2Proof.Machine

/-- The instructions that read `Keys` (10_state.md R40). -/
def ReadsKeys (i : Instr) : Prop := ∃ x, i = .skp x ∨ i = .sknp x ∨ i = .ldVxKey x

/-- The instructions that read `Rnd` (10_state.md R41). -/
def ReadsRnd (i : Instr) : Prop := ∃ x kk, i = .rnd x kk

/-- The state s under the ROM count, the counters, the frame port, the parameters and the environment of c. -/
def State.inContext (s c : State) : State :=
  { s with
    romCnt := c.romCnt, cntInstr := c.cntInstr, cntTimer := c.cntTimer, fbValid := c.fbValid, fbData := c.fbData
    params := c.params, env := c.env }

variable {s t c : State} {i : Instr}

theorem State.transfer_inContext (a n : Nat) (done : State) :
    (s.inContext c).transfer a n (done.inContext c) = (s.transfer a n done).inContext c := by
  unfold State.transfer
  split <;> rfl

/-- A transfer whose range and good outcome do not read the context does the same under any. -/
theorem transfer_next_inContext {a n : Nat} {done : State} (h : exec i s = .next t)
    (hs : exec i s = .next (s.transfer a n done))
    (hc : exec i (s.inContext c) = .next ((s.inContext c).transfer a n (done.inContext c))) :
    exec i (s.inContext c) = .next (t.inContext c) := by
  rw [Host.Outcome.next.inj (h.symm.trans hs), hc, State.transfer_inContext]

/-- An instruction does the same under any context with the same policy and the inputs it reads. -/
theorem exec_inContext (h : exec i s = .next t) (hp : c.params.sysPolicy = s.params.sysPolicy)
    (hk : ReadsKeys i → c.env.now.keys = s.env.now.keys) (hr : ReadsRnd i → c.env.now.rnd = s.env.now.rnd) :
    exec i (s.inContext c) = .next (t.inContext c) := by
  cases i with
  | ret =>
    obtain ⟨hsp, e⟩ | ⟨hsp, e⟩ := exec_ret_cases s
    · cases h.symm.trans e
      exact exec_ret_empty (s := s.inContext c) hsp
    · cases h.symm.trans e
      exact exec_ret_pop (s := s.inContext c) hsp
  | call nnn =>
    obtain ⟨hsp, e⟩ | ⟨hsp, e⟩ := exec_call_cases s nnn
    · cases h.symm.trans e
      exact exec_call_full (s := s.inContext c) hsp
    · cases h.symm.trans e
      exact exec_call_push (s := s.inContext c) hsp
  | sys nnn =>
    obtain ⟨hpol, e⟩ | ⟨hpol, e⟩ | ⟨hpol, e⟩ := exec_sys_cases s nnn
    · cases h.symm.trans e
      exact exec_sys_fault (s := s.inContext c) (hp.trans hpol)
    · cases h.symm.trans e
      exact exec_sys_ignore (s := s.inContext c) (hp.trans hpol)
    · cases h.symm.trans e
      exact exec_sys_jump (s := s.inContext c) (hp.trans hpol)
  | ldBcd x => exact transfer_next_inContext h (exec_ldBcd x s) (exec_ldBcd x (s.inContext c))
  | ldMemVx x => exact transfer_next_inContext h (exec_ldMemVx x s) (exec_ldMemVx x (s.inContext c))
  | ldVxMem x => exact transfer_next_inContext h (exec_ldVxMem x s) (exec_ldVxMem x (s.inContext c))
  | drw x y n => exact transfer_next_inContext h (exec_drw x y n s) (exec_drw x y n (s.inContext c))
  | skp x =>
    have hkeys : (s.inContext c).keys = s.keys := hk ⟨x, .inl rfl⟩
    cases h
    rw [exec, execSkp, hkeys]
    rfl
  | sknp x =>
    have hkeys : (s.inContext c).keys = s.keys := hk ⟨x, .inr (.inl rfl)⟩
    cases h
    rw [exec, execSknp, hkeys]
    rfl
  | ldVxKey x =>
    have hkeys : (s.inContext c).keys = s.keys := hk ⟨x, .inr (.inr rfl)⟩
    cases hlow : lowestKey? s.keys with
    | none =>
      cases h.symm.trans (exec_ldVxKey_none hlow)
      exact exec_ldVxKey_none (s := s.inContext c) (hkeys ▸ hlow)
    | some k =>
      cases h.symm.trans (exec_ldVxKey_some hlow)
      exact exec_ldVxKey_some (s := s.inContext c) (hkeys ▸ hlow)
  | rnd x kk =>
    have hrnd : (s.inContext c).rnd = s.rnd := hr ⟨x, kk, rfl⟩
    cases h
    rw [exec, execRnd, hrnd]
    rfl
  | _ => cases h; rfl

/-- An instruction leaves its context as it was. -/
theorem inContext_of_exec (h : exec i s = .next t) : t = t.inContext s := by
  have hsame : exec i s = .next (t.inContext s) := exec_inContext (c := s) h rfl (fun _ => rfl) fun _ => rfl
  exact Host.Outcome.next.inj (h.symm.trans hsame)

end Sys2Proof.Machine
end

section
/-! The instruction step, branch by branch and under another context (30_encoding.md R90, R91, R97). -/

namespace Sys2Proof.Machine

variable {s t c : State} {i : Instr} {w : Word}

theorem State.retireUnlessHalted_of_halted (h : s.run = .halted) : s.retireUnlessHalted w = s := if_pos h

theorem State.retireUnlessHalted_of_not_halted (h : s.run ≠ .halted) : s.retireUnlessHalted w = s.pulseRetire w :=
  if_neg h

@[simp] theorem State.retireUnlessHalted_run : (s.retireUnlessHalted w).run = s.run := by
  obtain ⟨-, h⟩ | ⟨-, h⟩ := s.retireUnlessHalted_cases w <;> rw [h]

theorem State.retireUnlessHalted_inContext :
    (s.inContext c).retireUnlessHalted w = (s.retireUnlessHalted w).inContext c := by
  by_cases h : s.run = .halted
  · rw [State.retireUnlessHalted_of_halted h]
    exact State.retireUnlessHalted_of_halted h
  · rw [State.retireUnlessHalted_of_not_halted h]
    exact State.retireUnlessHalted_of_not_halted h

theorem State.instructionStep_fetchFault (h : 4094 < s.pc.toNat) :
    s.instructionStep = .next (s.halt .memoryOutOfRange (BitVec.ofNat 16 (max s.pc.toNat 4096))) := by
  obtain ⟨-, e⟩ | ⟨hpc, -⟩ | ⟨hpc, -⟩ := s.instructionStep_cases
  · exact e
  · omega
  · omega

theorem State.instructionStep_of_fetch (h : s.pc.toNat ≤ 4094) : s.instructionStep = s.runWord s.fetchedWord := by
  rw [State.instructionStep, outOfRange?_eq_none.2 (.inr (by omega))]

theorem State.instructionStep_of_unrecognized (h : s.pc.toNat ≤ 4094) {u : Word}
    (hd : decode s.fetchedWord = .unrecognized u) :
    s.instructionStep = .next (s.advancePc.halt .unrecognizedInstruction u) := by
  rw [State.instructionStep_of_fetch h, State.runWord, hd]

theorem State.instructionStep_of_decode (h : s.pc.toNat ≤ 4094) (hd : decode s.fetchedWord = .instr i)
    (hexec : exec i s.advancePc = .next t) : s.instructionStep = .next (t.retireUnlessHalted s.fetchedWord) := by
  rw [State.instructionStep_of_fetch h, State.runWord, hd]
  exact State.runInstr_eq_next.2 ⟨t, hexec, rfl⟩

/-- All an instruction step that answers t can have done. -/
theorem State.instructionStep_next_cases (h : s.instructionStep = .next t) :
    (4094 < s.pc.toNat ∧ t = s.halt .memoryOutOfRange (BitVec.ofNat 16 (max s.pc.toNat 4096))) ∨
    (s.pc.toNat ≤ 4094 ∧ ∃ u, decode s.fetchedWord = .unrecognized u ∧
      t = s.advancePc.halt .unrecognizedInstruction u) ∨
    (s.pc.toNat ≤ 4094 ∧ ∃ i u, decode s.fetchedWord = .instr i ∧ exec i s.advancePc = .next u ∧
      t = u.retireUnlessHalted s.fetchedWord) := by
  obtain ⟨hpc, e⟩ | ⟨hpc, u, hd, e⟩ | ⟨hpc, i, hd, e⟩ := s.instructionStep_cases
  · exact .inl ⟨hpc, Host.Outcome.next.inj (h.symm.trans e)⟩
  · exact .inr (.inl ⟨hpc, u, hd, Host.Outcome.next.inj (h.symm.trans e)⟩)
  · obtain ⟨u, hexec, ht⟩ := State.runInstr_eq_next.1 (e.symm.trans h)
    exact .inr (.inr ⟨hpc, i, u, hd, hexec, ht⟩)

theorem State.instructionStep_answers (s : State) : ∃ t, s.instructionStep = .next t := by
  obtain ⟨-, e⟩ | ⟨-, u, -, e⟩ | ⟨hpc, i, hd, -⟩ := s.instructionStep_cases
  · exact ⟨_, e⟩
  · exact ⟨_, e⟩
  · obtain ⟨t, hexec⟩ := exec_answers s.advancePc i
    exact ⟨_, State.instructionStep_of_decode hpc hd hexec⟩

/-- An instruction step does the same under any context with the same policy and the same inputs. -/
theorem State.instructionStep_inContext (h : s.instructionStep = .next t)
    (hp : c.params.sysPolicy = s.params.sysPolicy) (hk : c.env.now.keys = s.env.now.keys)
    (hr : c.env.now.rnd = s.env.now.rnd) : (s.inContext c).instructionStep = .next (t.inContext c) := by
  obtain ⟨hpc, rfl⟩ | ⟨hpc, u, hd, rfl⟩ | ⟨hpc, i, u, hd, hexec, rfl⟩ := State.instructionStep_next_cases h
  · exact State.instructionStep_fetchFault (s := s.inContext c) hpc
  · exact State.instructionStep_of_unrecognized (s := s.inContext c) hpc hd
  · rw [← State.retireUnlessHalted_inContext]
    exact State.instructionStep_of_decode (s := s.inContext c) hpc hd
      (exec_inContext hexec hp (fun _ => hk) fun _ => hr)

/-- An instruction step leaves its context as it was. -/
theorem State.inContext_of_instructionStep (h : s.instructionStep = .next t) : t = t.inContext s := by
  have hsame : s.instructionStep = .next (t.inContext s) := State.instructionStep_inContext (c := s) h rfl rfl rfl
  exact Host.Outcome.next.inj (h.symm.trans hsame)

/-- An instruction step of the running core leaves it running, or halts it with the halt registers and pc alone changed
(60_exceptions.md R209). -/
theorem State.instructionStep_run (hrun : s.run = .running) (h : s.instructionStep = .next t) :
    t.run = .running ∨ t = { s with
      run := .halted, haltCause := t.haltCause, haltInfo := t.haltInfo
      pc := if s.pc.toNat ≤ 4094 then s.pc + 2#16 else s.pc } := by
  obtain ⟨hpc, rfl⟩ | ⟨hpc, u, -, rfl⟩ | ⟨hpc, i, u, -, hexec, rfl⟩ := State.instructionStep_next_cases h
  · rw [if_neg (by omega)]
    exact .inr rfl
  · rw [if_pos hpc]
    exact .inr rfl
  · obtain ⟨hkeep, -, -⟩ | ⟨cause, info, rfl, -⟩ := (Effect.of_exec hexec).halt_or_keep
    · exact .inl (State.retireUnlessHalted_run.trans (hkeep.trans hrun))
    · rw [if_pos hpc, State.retireUnlessHalted_of_halted rfl]
      exact .inr rfl

end Sys2Proof.Machine
end

section
/-! The obligations of the instruction step (10_state.md R40, R41, 30_encoding.md R91, 60_exceptions.md R200, R209). -/

open Sys2Proof Sys2Proof.Machine

/-- Settles O40: an instruction does the same in any context that has the inputs it reads, and leaves its context. -/
theorem inputsReadOnlyByTheirInstructions : Obligations.InputsReadOnlyByTheirInstructions := by
  intro i s t h
  refine ⟨fun hi keys => ?_, fun hi rnd => ?_⟩
  · have hno : ¬ReadsKeys i := fun ⟨x, hx⟩ => by
      obtain ⟨hskp, hsknp, hkey⟩ := hi x
      exact hx.elim hskp fun hx => hx.elim hsknp hkey
    have ht : t.withKeys keys = t.inContext (s.withKeys keys) := congrArg (·.withKeys keys) (inContext_of_exec h)
    rw [ht]
    exact exec_inContext (c := s.withKeys keys) h rfl (fun hk => absurd hk hno) fun _ => rfl
  · have hno : ¬ReadsRnd i := fun ⟨x, kk, hx⟩ => hi x kk hx
    have ht : t.withRnd rnd = t.inContext (s.withRnd rnd) := congrArg (·.withRnd rnd) (inContext_of_exec h)
    rw [ht]
    exact exec_inContext (c := s.withRnd rnd) h rfl (fun _ => rfl) fun hr => absurd hr hno

/-- Settles O41: the range check of the fetch's two bytes decides, and reports the lowest bad address. -/
theorem fetchReadsWordOrHalts : Obligations.FetchReadsWordOrHalts := by
  intro s
  refine ⟨Memory.readWord_toNat _ _, State.instructionStep_of_fetch, fun hpc => ?_, fun hpc => ?_⟩
  · rw [State.instructionStep_fetchFault (by omega), hpc]
    rfl
  · rw [State.instructionStep_fetchFault (by omega), max_eq_left hpc, BitVec.ofNat_toNat, BitVec.setWidth_eq]
    rfl

/-- Settles O44: an instruction step that does not leave the core running changes the halt registers and pc alone. -/
theorem faultsArePrecise : Obligations.FaultsArePrecise := by
  intro s t hrun h hhalted
  obtain hrunning | hprecise := State.instructionStep_run hrun h
  · cases hrunning.symm.trans hhalted
  · exact hprecise

/-- Settles O60: the codes are read off their definitions. -/
theorem outputCodes : Obligations.OutputCodes := ⟨rfl, rfl, rfl, rfl, rfl, rfl, rfl, rfl, rfl, rfl, rfl⟩

end

section
/-! The invariant under each thing a step does (10_state.md section 12). -/

namespace Sys2Proof.Machine

variable {s t u : State} {i : Instr} {w : Word}

/-- Legal parameters have both periods positive. -/
theorem periods_pos {p : Params} (h : p.legal = true) : 0 < p.pInstr ∧ 0 < p.pTimer := by
  simp only [Params.legal, Bool.and_eq_true, decide_eq_true_eq] at h
  simp only [Params.pInstr, Params.pTimer]
  omega

theorem powerOn_inv {p : Params} (e : Env) (h : p.legal = true) : (State.powerOn p e).Inv where
  memory := rfl
  parameters := h
  causeWhileUnhalted _ := ⟨rfl, rfl⟩
  causeWhileHalted h := by cases h
  pcBound := Nat.zero_le 4350
  stackBound j hj := absurd hj (Nat.not_lt_zero _)
  counters := periods_pos h
  booting _ :=
    { registers := ⟨rfl, rfl, rfl⟩, stack := ⟨rfl, rfl⟩, timers := ⟨rfl, rfl⟩, framebuffer := rfl, counters := ⟨rfl, rfl⟩
      outputs := ⟨rfl, rfl, rfl, rfl⟩, cells := fun a ha => absurd (Memory.read_nil a) ha }

theorem State.Inv.nextSample (h : s.Inv) : s.nextSample.Inv :=
  { h with booting := fun hb => { h.booting hb with } }

theorem State.Inv.lowerPulses (h : s.Inv) : s.lowerPulses.Inv :=
  { h with
    causeWhileHalted := fun hh => ⟨(h.causeWhileHalted hh).1, rfl, rfl⟩
    booting := fun hb =>
      { h.booting hb with outputs := ⟨rfl, (h.booting hb).outputs.2.1, rfl, (h.booting hb).outputs.2.2.2⟩ } }

/-- A halt keeps the invariant of a state with its pulses low. -/
theorem State.Inv.halt (h : s.Inv) (hr : s.retire = false) (hf : s.fbValid = false) {c : HaltCause}
    (hc : c ≠ .notHalted) (info : Word) : (s.halt c info).Inv :=
  { h with
    causeWhileUnhalted := fun hrun => absurd rfl hrun
    causeWhileHalted := fun _ => ⟨hc, hr, hf⟩
    booting := fun hb => by cases hb }

/-- In `Running` the invariant is about memory, parameters, halt registers, pc, stack and counters alone. -/
structure State.RunningInv (s : State) : Prop where
  running : s.run = .running
  memory : s.mem.wf = true
  parameters : s.params.legal = true
  cause : s.haltCause = .notHalted ∧ s.haltInfo = 0#16
  pcBound : s.pc.toNat ≤ 4350
  stackBound : ∀ j : Fin 16, j.val < s.sp.val → s.stack[j.val].toNat ≤ 4096
  counters : s.cntInstr < s.params.pInstr ∧ s.cntTimer < s.params.pTimer

theorem State.inv_of_runningInv (h : s.RunningInv) : s.Inv where
  memory := h.memory
  parameters := h.parameters
  causeWhileUnhalted _ := h.cause
  causeWhileHalted hh := by cases h.running.symm.trans hh
  pcBound := h.pcBound
  stackBound := h.stackBound
  counters := h.counters
  booting hb := by cases h.running.symm.trans hb

theorem State.Inv.runningInv (h : s.Inv) (hrun : s.run = .running) : s.RunningInv :=
  { h with running := hrun, cause := h.causeWhileUnhalted (by rw [hrun]; decide) }

theorem HaltCause.OfExec.ne_notHalted {c : HaltCause} (h : c.OfExec) : c ≠ .notHalted := by
  rcases h with rfl | rfl | rfl | rfl <;> decide

/-- A pushed slot is the only new one, and holds the pc of an instruction fetched from inside the memory. -/
theorem stackBound_push {stack : Vector Word 16} {sp : Nat} (hsp : sp < 16) {a : Word} (ha : a.toNat ≤ 4096)
    (h : ∀ j : Fin 16, j.val < sp → stack[j.val].toNat ≤ 4096) (j : Fin 16) (hj : j.val < sp + 1) :
    (stack.set sp a)[j.val].toNat ≤ 4096 := by
  rw [Vector.getElem_set]
  split
  · exact ha
  · exact h j (by omega)

/-- An instruction fetched from inside the memory keeps the invariant. -/
theorem Effect.runningInv (he : Effect i s t) (h : s.RunningInv) (hlow : 2 ≤ s.pc.toNat) (hpc : s.pc.toNat ≤ 4096)
    (hrun : t.run = .running) : t.RunningInv := by
  cases he with
  | halts c info hc => cases hrun
  | stores bs _ hin => exact { h with memory := Memory.wf_writeBytes h.memory (.inr hin) }
  | jumps a _ ha => exact { h with pcBound := ha hlow hpc }
  | calls nnn _ hsp =>
    exact { h with
      pcBound := (addressOf_le nnn).trans (by decide), stackBound := stackBound_push hsp hpc h.stackBound }
  | returns _ hsp =>
    have hslot := h.stackBound ⟨s.sp.val - 1, by omega⟩ (by simp only; omega)
    exact { h with
      pcBound := hslot.trans (by decide), stackBound := fun j hj => h.stackBound j (by simp only at hj; omega) }
  | registers | index | delay | sound | clears | draws => exact { h with }

theorem State.RunningInv.advancePc (h : s.RunningInv) (hpc : s.pc.toNat ≤ 4094) : s.advancePc.RunningInv :=
  { h with pcBound := by rw [State.advancePc, State.setPc_pc]; bv_omega }

/-- An instruction step of the running core that leaves it running keeps the invariant. -/
theorem State.RunningInv.instructionStep (h : s.RunningInv) (hstep : s.instructionStep = .next t)
    (hrun : t.run = .running) : t.RunningInv := by
  obtain ⟨-, rfl⟩ | ⟨-, u, -, rfl⟩ | ⟨hpc, i, u, -, hexec, rfl⟩ := State.instructionStep_next_cases hstep
  · cases hrun
  · cases hrun
  · rw [State.retireUnlessHalted_run] at hrun
    have hnext : s.advancePc.pc.toNat = s.pc.toNat + 2 := by rw [State.advancePc, State.setPc_pc]; bv_omega
    have hu := (Effect.of_exec hexec).runningInv (h.advancePc hpc) (by omega) (by omega) hrun
    rw [State.retireUnlessHalted_of_not_halted (by rw [hrun]; decide)]
    exact { hu with }

/-- The cause an instruction step halts with is one. -/
theorem State.instructionStep_cause (hrun : s.run = .running) (hstep : s.instructionStep = .next t)
    (hhalted : t.run = .halted) : t.haltCause ≠ .notHalted := by
  obtain ⟨-, rfl⟩ | ⟨-, u, -, rfl⟩ | ⟨-, i, u, -, hexec, rfl⟩ := State.instructionStep_next_cases hstep
  · exact nofun
  · exact nofun
  · obtain ⟨hkeep, -, -⟩ | ⟨c, info, rfl, hc⟩ := (Effect.of_exec hexec).halt_or_keep
    · cases (State.retireUnlessHalted_run.trans (hkeep.trans hrun)).symm.trans hhalted
    · exact hc.ne_notHalted

/-- An instruction step of the running core with its pulses low keeps the invariant. -/
theorem State.RunningInv.instructionStep_inv (h : s.RunningInv) (hr : s.retire = false) (hf : s.fbValid = false)
    (hstep : s.instructionStep = .next t) : t.Inv := by
  obtain hrun | hprecise := State.instructionStep_run h.running hstep
  · exact State.inv_of_runningInv (h.instructionStep hstep hrun)
  · have hcause := State.instructionStep_cause h.running hstep (congrArg State.run hprecise)
    have hpc : (if s.pc.toNat ≤ 4094 then s.pc + 2#16 else s.pc).toNat ≤ 4350 := by
      have := h.pcBound
      split
      · bv_omega
      · assumption
    rw [hprecise]
    exact { (State.inv_of_runningInv h).halt hr hf hcause t.haltInfo with pcBound := hpc, booting := fun hb => by cases hb }

theorem State.RunningInv.timerStep (h : s.RunningInv) : s.timerStep.RunningInv := { h with }

/-- Counters inside their periods may replace the old ones once boot is over. -/
theorem State.Inv.setCounters (h : s.Inv) (hb : s.run ≠ .booting) {ci ct : Nat} (hci : ci < s.params.pInstr)
    (hct : ct < s.params.pTimer) : { s with cntInstr := ci, cntTimer := ct }.Inv :=
  { h with counters := ⟨hci, hct⟩, booting := fun h' => absurd h' hb }

theorem State.instructionStep_not_booting (hrun : s.run = .running) (h : s.instructionStep = .next t) :
    t.run ≠ .booting := by
  obtain hrunning | hprecise := State.instructionStep_run hrun h
  · rw [hrunning]
    decide
  · rw [hprecise]
    exact nofun

theorem State.RunningInv.instructionEdge_inv (h : s.RunningInv) (hr : s.retire = false) (hf : s.fbValid = false)
    (hedge : s.instructionEdge = .next t) : t.Inv := by
  obtain ⟨hci, hct⟩ := h.counters
  obtain ⟨-, u, hu, rfl⟩ | ⟨-, rfl⟩ := State.instructionEdge_eq_next.1 hedge
  · have huinv := h.instructionStep_inv hr hf hu
    have hnb := State.instructionStep_not_booting h.running hu
    rw [State.inContext_of_instructionStep hu] at huinv hnb ⊢
    exact huinv.setCounters hnb (ci := s.params.pInstr - 1) (Nat.sub_one_lt_of_lt hci) hct
  · exact (State.inv_of_runningInv h).setCounters (by rw [h.running]; decide) (by omega) hct

theorem State.Inv.timerEdge (h : s.Inv) : s.timerEdge.Inv := by
  obtain ⟨hci, hct⟩ := h.counters
  obtain ⟨-, e⟩ | ⟨hrun, -, e⟩ | ⟨hrun, -, e⟩ := s.timerEdge_cases
  · rwa [e]
  · have hnb : s.timerStep.run ≠ .booting := by rw [State.timerStep_run, hrun]; decide
    rw [e]
    exact (State.inv_of_runningInv (h.runningInv hrun).timerStep).setCounters hnb hci (Nat.sub_one_lt_of_lt hct)
  · rw [e]
    exact h.setCounters (by rw [hrun]; decide) hci (by omega)

theorem State.RunningInv.fireTicks (h : s.RunningInv) (hr : s.retire = false) (hf : s.fbValid = false)
    (hfire : s.fireTicks = .next t) : t.Inv := by
  obtain ⟨-, -, hstep⟩ | ⟨-, -, rfl⟩ | ⟨-, u, hedge, rfl⟩ := State.fireTicks_eq_next.1 hfire
  · exact h.instructionStep_inv hr hf hstep
  · exact State.inv_of_runningInv h.timerStep
  · exact (h.instructionEdge_inv hr hf hedge).timerEdge

/-! Boot. -/

/-- A byte taken in `Booting` lies in the memory, above every cell the load port wrote before. -/
theorem State.Inv.takeRomByte (h : s.Inv) (hb : s.run = .booting)
    (hroom : s.env.now.romValid = true → s.romCnt.val < 3584) : s.takeRomByte.Inv := by
  unfold State.takeRomByte
  split
  · rename_i hvalid
    have hlt := hroom hvalid
    obtain ⟨hfull, -⟩ | ⟨_, e⟩ := s.loadRomByte_cases s.env.now.romByte
    · omega
    · have hloaded := h.booting hb
      rw [e]
      refine { h with
        memory := Memory.wf_write h.memory (by simp only [loadAddress, lastAddress]; omega) _
        booting := fun _ => { hloaded with cells := fun a ha => ?_ } }
      rw [Memory.read_write h.memory] at ha
      split at ha
      · simp only
        omega
      · have := hloaded.cells a ha
        simp only
        omega
  · exact h

theorem State.counterOnEntry_lt {period old : Nat} (hpos : 0 < period) (h : old < period) :
    s.counterOnEntry period old < period := by
  unfold State.counterOnEntry
  split <;> omega

theorem State.Inv.enterRunning (h : s.Inv) (hb : s.run = .booting) : s.enterRunning.RunningInv where
  running := rfl
  memory := Memory.wf_writeBytes h.memory (.inr (by simp [lastAddress]))
  parameters := h.parameters
  cause := h.causeWhileUnhalted (by rw [hb]; decide)
  pcBound := by rw [State.enterRunning_pc]; decide
  stackBound := h.stackBound
  counters := ⟨State.counterOnEntry_lt (periods_pos h.parameters).1 h.counters.1,
    State.counterOnEntry_lt (periods_pos h.parameters).2 h.counters.2⟩

theorem State.Inv.bootStep (h : s.Inv) (hb : s.run = .booting) : s.bootStep.Inv := by
  obtain ⟨hf, -, hr, -⟩ := (h.booting hb).outputs
  obtain ⟨-, e⟩ | ⟨-, -, -, e⟩ | ⟨-, hb', hroom, e⟩ := s.bootStep_cases hb
  · rw [e]
    exact h.halt hr hf (by decide) _
  · rw [e]
    exact h.halt hr hf (by decide) _
  · have ht := h.takeRomByte hb hroom
    rw [e]
    split
    · exact State.inv_of_runningInv (ht.enterRunning hb')
    · exact ht

/-- An iteration from a state with its pulses low keeps the invariant. -/
theorem State.Inv.iterate (h : s.Inv) (hr : s.retire = false) (hf : s.fbValid = false) (hit : s.iterate = .next t) :
    t.Inv := by
  obtain ⟨hb, rfl⟩ | ⟨-, rfl⟩ | ⟨-, -, rfl⟩ | ⟨hrun, -, hfire⟩ := State.iterate_eq_next.1 hit
  · exact h.bootStep hb
  · exact h
  · exact h.halt hr hf (by decide) _
  · exact (h.runningInv hrun).fireTicks hr hf hfire

end Sys2Proof.Machine
end

section
/-! The obligations of the invariant (10_state.md section 12). -/

open Sys2Proof Sys2Proof.Machine

/-- Settles O46: reset is the power-on state under the default parameters, which are legal. -/
theorem invAtReset : Obligations.InvAtReset := powerOn_inv initialEnv (by decide)

/-- Settles O47: the pulses are lowered first, and then each thing an iteration can do keeps the invariant: boot, halt, an
instruction step by its effect, the timer step, the counters. -/
theorem invKeptByStep : Obligations.InvKeptByStep := by
  intro s t h hstep
  obtain ⟨-, rfl⟩ | ⟨-, u, hu, rfl⟩ := step_eq_next.1 hstep
  · exact (powerOn_inv s.env h.parameters).nextSample
  · exact (h.lowerPulses.iterate rfl rfl hu).nextSample

end

section
/-! What a step does in each run state, and the two halves of an edge (10_state.md R30, 60_exceptions.md R207, R213, R214). -/

namespace Sys2Proof.Machine

variable {s t u : State}

theorem step_of_rst (h : s.env.now.rst = true) : step s = .next (State.powerOn s.params s.env).nextSample :=
  step_eq_next.2 (.inl ⟨h, rfl⟩)

theorem step_of_halted (hrst : s.env.now.rst = false) (hrun : s.run = .halted) :
    step s = .next s.lowerPulses.nextSample :=
  step_eq_next.2 (.inr ⟨hrst, _, State.iterate_eq_next.2 (.inr (.inl ⟨hrun, rfl⟩)), rfl⟩)

theorem step_of_running_stop (hrst : s.env.now.rst = false) (hrun : s.run = .running) (hstop : s.env.now.stop = true) :
    step s = .next (s.lowerPulses.halt .stop 0#16).nextSample :=
  step_eq_next.2 (.inr ⟨hrst, _, State.iterate_eq_next.2 (.inr (.inr (.inl ⟨hrun, hstop, rfl⟩))), rfl⟩)

/-- `CNT_INSTR <- n`. -/
def State.setCntInstr (s : State) (n : Nat) : State := { s with cntInstr := n }

@[simp] theorem State.setCntInstr_run (s : State) (n : Nat) : (s.setCntInstr n).run = s.run := rfl
@[simp] theorem State.setCntInstr_cntTimer (s : State) (n : Nat) : (s.setCntInstr n).cntTimer = s.cntTimer := rfl
@[simp] theorem State.setCntInstr_params (s : State) (n : Nat) : (s.setCntInstr n).params = s.params := rfl

/-- The premises of a step that fires the ticks due: the core runs, and neither reset nor stop is asserted. -/
structure State.Fires (s : State) : Prop where
  rst : s.env.now.rst = false
  run : s.run = .running
  stop : s.env.now.stop = false

/-- All a step without reset can do, by run state (10_state.md R30). -/
theorem step_next_cases (hrst : s.env.now.rst = false) (h : step s = .next t) :
    (s.run = .booting ∧ t = s.lowerPulses.bootStep.nextSample) ∨ (s.run = .halted ∧ t = s.lowerPulses.nextSample) ∨
    (s.run = .running ∧ s.env.now.stop = true ∧ t = (s.lowerPulses.halt .stop 0#16).nextSample) ∨
    (s.Fires ∧ ∃ u, s.lowerPulses.fireTicks = .next u ∧ t = u.nextSample) := by
  obtain ⟨hrst', -⟩ | ⟨-, u, hu, rfl⟩ := step_eq_next.1 h
  · cases hrst.symm.trans hrst'
  obtain ⟨hb, rfl⟩ | ⟨hh, rfl⟩ | ⟨hrun, hstop, rfl⟩ | ⟨hrun, hstop, hfire⟩ := State.iterate_eq_next.1 hu
  · exact .inl ⟨hb, rfl⟩
  · exact .inr (.inl ⟨hh, rfl⟩)
  · exact .inr (.inr (.inl ⟨hrun, hstop, rfl⟩))
  · exact .inr (.inr (.inr ⟨⟨hrst, hrun, hstop⟩, u, hfire, rfl⟩))

theorem step_of_fires (hs : s.Fires) (h : s.lowerPulses.fireTicks = .next u) : step s = .next u.nextSample :=
  step_eq_next.2 (.inr ⟨hs.rst, u, State.iterate_eq_next.2 (.inr (.inr (.inr ⟨hs.run, hs.stop, h⟩))), rfl⟩)

theorem step_interleaved_instruction (hs : s.Fires) (hform : s.params.form = .interleaved)
    (htick : s.env.now.tick = .instruction) (h : s.lowerPulses.instructionStep = .next u) :
    step s = .next u.nextSample :=
  step_of_fires hs (State.fireTicks_eq_next.2 (.inl ⟨hform, htick, h⟩))

theorem step_interleaved_timer (hs : s.Fires) (hform : s.params.form = .interleaved) (htick : s.env.now.tick = .timer) :
    step s = .next s.lowerPulses.timerStep.nextSample :=
  step_of_fires hs (State.fireTicks_eq_next.2 (.inr (.inl ⟨hform, htick, rfl⟩)))

theorem step_clocked_due (hs : s.Fires) (hform : s.params.form = .clocked) (hc : s.cntInstr = 0)
    (h : s.lowerPulses.instructionStep = .next u) :
    step s = .next (u.setCntInstr (s.params.pInstr - 1)).timerEdge.nextSample :=
  step_of_fires hs (State.fireTicks_eq_next.2 (.inr (.inr ⟨hform, _,
    State.instructionEdge_eq_next.2 (.inl ⟨hc, u, h, rfl⟩), rfl⟩)))

theorem step_clocked_not_due (hs : s.Fires) (hform : s.params.form = .clocked) (hc : s.cntInstr ≠ 0) :
    step s = .next (s.lowerPulses.setCntInstr (s.cntInstr - 1)).timerEdge.nextSample :=
  step_of_fires hs (State.fireTicks_eq_next.2 (.inr (.inr ⟨hform, _,
    State.instructionEdge_eq_next.2 (.inr ⟨hc, rfl⟩), rfl⟩)))

/-- All an edge of the running core can do: the instruction step if it is due, its counter, and the timer's half. -/
theorem step_clocked_cases (hs : s.Fires) (hform : s.params.form = .clocked) (h : step s = .next t) :
    (s.cntInstr = 0 ∧ ∃ u, s.lowerPulses.instructionStep = .next u ∧
      t = (u.setCntInstr (s.params.pInstr - 1)).timerEdge.nextSample) ∨
    (s.cntInstr ≠ 0 ∧ t = (s.lowerPulses.setCntInstr (s.cntInstr - 1)).timerEdge.nextSample) := by
  by_cases hc : s.cntInstr = 0
  · obtain ⟨u, hu⟩ := s.lowerPulses.instructionStep_answers
    exact .inl ⟨hc, u, hu, Host.Outcome.next.inj (h.symm.trans (step_clocked_due hs hform hc hu))⟩
  · exact .inr ⟨hc, Host.Outcome.next.inj (h.symm.trans (step_clocked_not_due hs hform hc))⟩

theorem State.timerEdge_of_not_running (h : s.run ≠ .running) : s.timerEdge = s := if_neg h

theorem State.timerEdge_due (hrun : s.run = .running) (hc : s.cntTimer = 0) :
    s.timerEdge = { s.timerStep with cntTimer := s.params.pTimer - 1 } := by
  obtain ⟨hno, -⟩ | ⟨-, -, e⟩ | ⟨-, hno, -⟩ := s.timerEdge_cases
  · exact absurd hrun hno
  · exact e
  · exact absurd hc hno

theorem State.timerEdge_not_due (hrun : s.run = .running) (hc : s.cntTimer ≠ 0) :
    s.timerEdge = { s with cntTimer := s.cntTimer - 1 } := by
  obtain ⟨hno, -⟩ | ⟨-, hno, -⟩ | ⟨-, -, e⟩ := s.timerEdge_cases
  · exact absurd hrun hno
  · exact absurd hno hc
  · exact e

/-- What the timer's half of an edge leaves, and what it makes of its counter (R214). -/
theorem State.timerEdge_counters (s : State) : s.timerEdge.run = s.run ∧ s.timerEdge.cntInstr = s.cntInstr ∧
    s.timerEdge.cntTimer = if s.run = .running then
      (if s.cntTimer = 0 then s.params.pTimer - 1 else s.cntTimer - 1) else s.cntTimer := by
  obtain ⟨hrun, e⟩ | ⟨hrun, hc, e⟩ | ⟨hrun, hc, e⟩ := s.timerEdge_cases
  · rw [e, if_neg hrun]
    exact ⟨rfl, rfl, rfl⟩
  · rw [e, if_pos hrun, if_pos hc]
    exact ⟨rfl, rfl, rfl⟩
  · rw [e, if_pos hrun, if_neg hc]
    exact ⟨rfl, rfl, rfl⟩

/-- The parts of its context an instruction step leaves. -/
theorem State.instructionStep_frame (h : s.instructionStep = .next t) :
    t.cntInstr = s.cntInstr ∧ t.cntTimer = s.cntTimer ∧ t.fbValid = s.fbValid ∧ t.fbData = s.fbData ∧
      t.params = s.params := by
  rw [State.inContext_of_instructionStep h]
  exact ⟨rfl, rfl, rfl, rfl, rfl⟩

/-- But for the counters, an iteration of the running core is an instruction step or none, then a timer step or none. -/
theorem State.fireTicks_factors (h : s.fireTicks = .next t) : ∃ u ci ct, (u = s ∨ s.instructionStep = .next u) ∧
    (t = { u with cntInstr := ci, cntTimer := ct } ∨ t = { u.timerStep with cntInstr := ci, cntTimer := ct }) := by
  obtain ⟨-, -, hstep⟩ | ⟨-, -, rfl⟩ | ⟨-, v, hedge, rfl⟩ := State.fireTicks_eq_next.1 h
  · exact ⟨t, _, _, .inr hstep, .inl rfl⟩
  · exact ⟨s, _, _, .inl rfl, .inr rfl⟩
  · obtain ⟨u, ci, hu, rfl⟩ : ∃ u ci, (u = s ∨ s.instructionStep = .next u) ∧ v = u.setCntInstr ci := by
      obtain ⟨-, u, hu, rfl⟩ | ⟨-, rfl⟩ := State.instructionEdge_eq_next.1 hedge
      · exact ⟨u, _, .inr hu, rfl⟩
      · exact ⟨s, _, .inl rfl, rfl⟩
    obtain ⟨-, e⟩ | ⟨-, -, e⟩ | ⟨-, -, e⟩ := State.timerEdge_cases (u.setCntInstr ci)
    · exact ⟨u, ci, u.cntTimer, hu, .inl e⟩
    · exact ⟨u, ci, _, hu, .inr e⟩
    · exact ⟨u, ci, _, hu, .inl e⟩

/-- An iteration of the running core does not go back to `Booting`, keeps the parameters, and shows at the frame port the
framebuffer it leaves or what was there (R44). -/
theorem State.fireTicks_frame (hrun : s.run = .running) (h : s.fireTicks = .next t) :
    t.run ≠ .booting ∧ t.params = s.params ∧
      ((t.fbValid = s.fbValid ∧ t.fbData = s.fbData) ∨ (t.fbValid = true ∧ t.fbData = t.fb)) := by
  obtain ⟨u, ci, ct, hu, ht⟩ := State.fireTicks_factors h
  have hframe : u.run ≠ .booting ∧ u.params = s.params ∧ u.fbValid = s.fbValid ∧ u.fbData = s.fbData := by
    obtain rfl | hstep := hu
    · exact ⟨by rw [hrun]; decide, rfl, rfl, rfl⟩
    · obtain ⟨-, -, hfv, hfd, hp⟩ := State.instructionStep_frame hstep
      exact ⟨State.instructionStep_not_booting hrun hstep, hp, hfv, hfd⟩
  obtain ⟨hnb, hp, hfv, hfd⟩ := hframe
  obtain rfl | rfl := ht
  · exact ⟨hnb, hp, .inl ⟨hfv, hfd⟩⟩
  · exact ⟨hnb, hp, .inr ⟨rfl, rfl⟩⟩

/-- Nothing in `Booting` reaches the parameters or the frame port. -/
theorem State.takeRomByte_frame (s : State) : s.takeRomByte.params = s.params ∧ s.takeRomByte.fbValid = s.fbValid ∧
    s.takeRomByte.fbData = s.fbData := by
  unfold State.takeRomByte
  split
  · obtain ⟨-, e⟩ | ⟨_, e⟩ := s.loadRomByte_cases s.env.now.romByte <;> rw [e] <;> exact ⟨rfl, rfl, rfl⟩
  · exact ⟨rfl, rfl, rfl⟩

theorem State.bootStep_frame (hb : s.run = .booting) :
    s.bootStep.params = s.params ∧ s.bootStep.fbValid = s.fbValid ∧ s.bootStep.fbData = s.fbData := by
  obtain ⟨-, e⟩ | ⟨-, -, -, e⟩ | ⟨-, -, -, e⟩ := s.bootStep_cases hb
  · rw [e]
    exact ⟨rfl, rfl, rfl⟩
  · rw [e]
    exact ⟨rfl, rfl, rfl⟩
  · rw [e]
    split <;> exact s.takeRomByte_frame

theorem State.fireTicks_answers (s : State) : ∃ t, s.fireTicks = .next t := by
  obtain ⟨u, hu⟩ := s.instructionStep_answers
  cases hform : s.params.form with
  | interleaved =>
    cases htick : s.env.now.tick with
    | instruction => exact ⟨u, State.fireTicks_eq_next.2 (.inl ⟨hform, htick, hu⟩)⟩
    | timer => exact ⟨_, State.fireTicks_eq_next.2 (.inr (.inl ⟨hform, htick, rfl⟩))⟩
  | clocked =>
    by_cases hc : s.cntInstr = 0
    · exact ⟨_, State.fireTicks_eq_next.2 (.inr (.inr ⟨hform, _,
        State.instructionEdge_eq_next.2 (.inl ⟨hc, u, hu, rfl⟩), rfl⟩))⟩
    · exact ⟨_, State.fireTicks_eq_next.2 (.inr (.inr ⟨hform, _,
        State.instructionEdge_eq_next.2 (.inr ⟨hc, rfl⟩), rfl⟩))⟩

end Sys2Proof.Machine
end

section
/-! The obligations of the step in each run state (30_encoding.md R90, 60_exceptions.md R205 to R208, 70_reset_and_hazards.md
R240). -/

open Sys2Proof Sys2Proof.Machine

/-- Settles O43: in the instruction step due the fetched word decodes to i, whose effect retires unless it halted. -/
theorem stepRunsDecodedInstruction : Obligations.StepRunsDecodedInstruction := by
  intro s t i hrst hrun hstop hpc hd hexec
  have hs : s.Fires := ⟨hrst, hrun, hstop⟩
  have hstep : s.lowerPulses.instructionStep = .next (t.retireUnlessHalted s.fetchedWord) :=
    State.instructionStep_of_decode (s := s.lowerPulses) hpc hd hexec
  refine ⟨fun hform htick => step_interleaved_instruction hs hform htick hstep,
    fun hform hc => step_clocked_due hs hform hc hstep, fun ht => ?_, fun ht => ?_⟩
  · rw [State.retireUnlessHalted_of_not_halted ht]
    exact ⟨rfl, rfl⟩
  · obtain ⟨-, -, -, -, -, hretire, -⟩ := (Effect.of_exec hexec).scheduler_frame
    rw [State.retireUnlessHalted_of_halted ht, hretire]

/-- Settles O45: reset, boot, the halts and the halted core answer by definition, and the scheduler because an instruction
step always does. -/
theorem stepAlwaysAnswers : Obligations.StepAlwaysAnswers := by
  intro s
  cases hrst : s.env.now.rst with
  | true => exact ⟨_, step_of_rst hrst⟩
  | false =>
    cases hrun : s.run with
    | booting => exact ⟨_, step_of_booting hrst hrun⟩
    | halted => exact ⟨_, step_of_halted hrst hrun⟩
    | running =>
      cases hstop : s.env.now.stop with
      | true => exact ⟨_, step_of_running_stop hrst hrun hstop⟩
      | false =>
        obtain ⟨u, hu⟩ := s.lowerPulses.fireTicks_answers
        exact ⟨_, step_of_fires ⟨hrst, hrun, hstop⟩ hu⟩

/-- Settles O48: reset takes the parameters over, and nothing in any run state writes them. -/
theorem parametersFixed : Obligations.ParametersFixed := by
  intro s t h
  cases hrst : s.env.now.rst with
  | true =>
    cases h.symm.trans (step_of_rst hrst)
    rfl
  | false =>
    obtain ⟨hb, rfl⟩ | ⟨-, rfl⟩ | ⟨-, -, rfl⟩ | ⟨hs, u, hu, rfl⟩ := step_next_cases hrst h
    · exact (State.bootStep_frame (s := s.lowerPulses) hb).1
    · rfl
    · rfl
    · exact (State.fireTicks_frame (s := s.lowerPulses) hs.run hu).2.1

/-- Settles O49: reset makes the power-on state; without it `Running` goes to `Running` or `Halted`, and `Halted` stays. -/
theorem resetClearsAndIsTheOnlyWay : Obligations.ResetClearsAndIsTheOnlyWay := by
  refine ⟨fun s hrst => ?_, fun s t hrst h => ?_⟩
  · refine ⟨_, step_of_rst hrst, fun x => ?_, rfl, rfl, fun j => ?_, rfl, rfl, rfl, pixel_blank, Memory.read_nil, rfl, rfl,
      rfl, rfl⟩
    · simp [State.reg, State.powerOn]
    · simp [State.powerOn]
  · obtain ⟨hb, -⟩ | ⟨hh, rfl⟩ | ⟨hr, -, rfl⟩ | ⟨hs, u, hu, rfl⟩ := step_next_cases hrst h
    · exact ⟨fun _ => hb, fun hh => by cases hb.symm.trans hh⟩
    · exact ⟨fun hb => (by cases hh.symm.trans hb), fun _ => hh⟩
    · exact ⟨nofun, fun _ => rfl⟩
    · have hnb := (State.fireTicks_frame (s := s.lowerPulses) hs.run hu).1
      exact ⟨fun hb => absurd hb hnb, fun hh => by cases hs.run.symm.trans hh⟩

/-- Settles O50: a step in `Halted` lowers pulses that are low and takes the next sample, and a safe run answers the state
of the given run, which would have to be unhalted. -/
theorem haltedIsTerminal : Obligations.HaltedIsTerminal := by
  refine ⟨fun s t hh hrst hr hf h => ?_, fun s t j k hj h hh hsafe => ?_⟩
  · cases h.symm.trans (step_of_halted hrst hh)
    obtain ⟨⟩ := s
    cases hr
    cases hf
    rfl
  · obtain ⟨u, hu, hunhalted⟩ := hsafe j hj
    cases h.symm.trans hu
    simp [State.unhalted, hh] at hunhalted

/-- Settles O51: in both run states the stop request is looked at first. -/
theorem stopHalts : Obligations.StopHalts := by
  intro s hrst hstop hrun
  obtain hrun | hb := hrun
  · exact ⟨_, step_of_running_stop hrst hrun hstop, rfl⟩
  · obtain ⟨-, e⟩ | ⟨hno, -⟩ | ⟨hno, -⟩ := s.lowerPulses.bootStep_cases hb
    · exact ⟨_, step_of_booting hrst hb, by rw [e]; rfl⟩
    · cases hstop.symm.trans hno
    · cases hstop.symm.trans hno

/-- Settles O53: boot, the halts and the instruction step leave the frame port, and the timer step copies the framebuffer. -/
theorem snapshotIsACopy : Obligations.SnapshotIsACopy := by
  intro s t hrst h
  have hport : (t.fbValid = false ∧ t.fbData = s.fbData) ∨ (t.fbValid = true ∧ t.fbData = t.fb) := by
    obtain ⟨hb, rfl⟩ | ⟨-, rfl⟩ | ⟨-, -, rfl⟩ | ⟨hs, u, hu, rfl⟩ := step_next_cases hrst h
    · exact .inl (State.bootStep_frame (s := s.lowerPulses) hb).2
    · exact .inl ⟨rfl, rfl⟩
    · exact .inl ⟨rfl, rfl⟩
    · exact (State.fireTicks_frame (s := s.lowerPulses) hs.run hu).2.2
  obtain ⟨hlow, hkept⟩ | ⟨hhigh, hcopy⟩ := hport
  · exact ⟨fun _ => hkept, fun hhigh => by cases hlow.symm.trans hhigh⟩
  · exact ⟨fun hlow => (by cases hlow.symm.trans hhigh), fun _ => hcopy⟩

end

section
/-! The obligations of the ROM load port (10_state.md R43, 70_reset_and_hazards.md R242), with what it rests on: outside
`Booting` an iteration reads no input but the schedule, the keys and the random byte. -/

namespace Sys2Proof.Machine

variable {s t u : State}

/-- The same state under another environment. -/
def State.withEnv (s : State) (e : Env) : State := { s with env := e }

/-- Two environments whose present samples agree in all an iteration of the scheduler reads. -/
def SameTicks (e e' : Env) : Prop := e.now.tick = e'.now.tick ∧ e.now.keys = e'.now.keys ∧ e.now.rnd = e'.now.rnd

variable {e : Env}

theorem State.instructionStep_withEnv (he : SameTicks e s.env) (h : s.instructionStep = .next t) :
    (s.withEnv e).instructionStep = .next (t.withEnv e) := by
  obtain ⟨-, hk, hr⟩ := he
  have ht : t.withEnv e = t.inContext (s.withEnv e) := congrArg (·.withEnv e) (State.inContext_of_instructionStep h)
  rw [ht]
  exact State.instructionStep_inContext (c := s.withEnv e) h rfl hk hr

theorem State.instructionEdge_withEnv (he : SameTicks e s.env) (h : s.instructionEdge = .next t) :
    (s.withEnv e).instructionEdge = .next (t.withEnv e) := by
  obtain ⟨hc, u, hu, rfl⟩ | ⟨hc, rfl⟩ := State.instructionEdge_eq_next.1 h
  · exact State.instructionEdge_eq_next.2 (.inl ⟨hc, _, State.instructionStep_withEnv he hu, rfl⟩)
  · exact State.instructionEdge_eq_next.2 (.inr ⟨hc, rfl⟩)

theorem State.timerEdge_withEnv (s : State) (e : Env) : (s.withEnv e).timerEdge = s.timerEdge.withEnv e := by
  by_cases hrun : s.run = .running
  · by_cases hc : s.cntTimer = 0
    · rw [State.timerEdge_due hrun hc]
      exact State.timerEdge_due (s := s.withEnv e) hrun hc
    · rw [State.timerEdge_not_due hrun hc]
      exact State.timerEdge_not_due (s := s.withEnv e) hrun hc
  · rw [State.timerEdge_of_not_running hrun]
    exact State.timerEdge_of_not_running (s := s.withEnv e) hrun

theorem State.fireTicks_withEnv (he : SameTicks e s.env) (h : s.fireTicks = .next t) :
    (s.withEnv e).fireTicks = .next (t.withEnv e) := by
  refine State.fireTicks_eq_next.2 ?_
  obtain ⟨hform, htick, hstep⟩ | ⟨hform, htick, rfl⟩ | ⟨hform, u, hu, rfl⟩ := State.fireTicks_eq_next.1 h
  · exact .inl ⟨hform, he.1.trans htick, State.instructionStep_withEnv he hstep⟩
  · exact .inr (.inl ⟨hform, he.1.trans htick, rfl⟩)
  · exact .inr (.inr ⟨hform, _, State.instructionEdge_withEnv he hu, (u.timerEdge_withEnv e).symm⟩)

/-- Outside `Booting` a step does the same but for the environment, whatever the load port shows. -/
theorem step_withRomPort (hnb : s.run ≠ .booting) (h : step s = .next t) (valid : Bool) (byte : Byte) (go : Bool) :
    ∃ t', step (s.withRomPort valid byte go) = .next t' ∧ t = { t' with env := t.env } := by
  cases hrst : s.env.now.rst with
  | true =>
    cases h.symm.trans (step_of_rst hrst)
    exact ⟨_, step_of_rst (s := s.withRomPort valid byte go) hrst, rfl⟩
  | false =>
    obtain ⟨hb, -⟩ | ⟨hh, rfl⟩ | ⟨hr, hstop, rfl⟩ | ⟨⟨-, hr, hstop⟩, u, hu, rfl⟩ := step_next_cases hrst h
    · exact absurd hb hnb
    · exact ⟨_, step_of_halted (s := s.withRomPort valid byte go) hrst hh, rfl⟩
    · exact ⟨_, step_of_running_stop (s := s.withRomPort valid byte go) hrst hr hstop, rfl⟩
    · have hfire := State.fireTicks_withEnv (s := s.lowerPulses) (e := (s.withRomPort valid byte go).env) ⟨rfl, rfl, rfl⟩ hu
      exact ⟨_, step_of_fires (s := s.withRomPort valid byte go) ⟨hrst, hr, hstop⟩ hfire, rfl⟩

/-- A byte presented alone in `Booting` is stored (R43). -/
theorem step_of_romByte (hrst : s.env.now.rst = false) (hb : s.run = .booting) (hstop : s.env.now.stop = false)
    (hvalid : s.env.now.romValid = true) (hgo : s.env.now.bootGo = false) (h : s.romCnt.val < 3584) :
    step s = .next { s.lowerPulses with
      mem := s.mem.write (512 + s.romCnt.val) s.env.now.romByte, romCnt := ⟨s.romCnt.val + 1, by omega⟩ }.nextSample := by
  rw [step_of_booting hrst hb]
  obtain ⟨hno, -⟩ | ⟨-, -, hfull, -⟩ | ⟨-, -, -, e⟩ := s.lowerPulses.bootStep_cases hb
  · cases hstop.symm.trans hno
  · rw [State.lowerPulses_romCnt] at hfull
    omega
  · obtain ⟨hfull, -⟩ | ⟨_, eload⟩ := s.lowerPulses.loadRomByte_cases s.env.now.romByte
    · rw [State.lowerPulses_romCnt] at hfull
      omega
    · rw [e, State.takeRomByte, State.lowerPulses_env, hgo, hvalid, if_pos rfl, eload]
      rfl

end Sys2Proof.Machine

open Sys2Proof Sys2Proof.Machine

/-- Settles O54: in `Booting` the byte is one write at the next address, and elsewhere no part of the step reads the port. -/
theorem romLoadPort : Obligations.RomLoadPort := by
  refine ⟨fun s hm hrst hb hstop hvalid hgo hroom => ?_, fun s t valid go byte hnb h => step_withRomPort hnb h valid byte go⟩
  exact ⟨_, step_of_romByte hrst hb hstop hvalid hgo hroom, rfl, Memory.read_write hm _ _, rfl⟩

/-- Settles O55: with 3584 bytes counted a byte presented leaves a step in `Booting` nothing but the halt. -/
theorem oversizedRomRejected : Obligations.OversizedRomRejected := by
  intro s hrst hb hstop hvalid hfull
  obtain ⟨hno, -⟩ | ⟨-, -, -, e⟩ | ⟨-, -, hroom, -⟩ := s.lowerPulses.bootStep_cases hb
  · cases hstop.symm.trans hno
  · exact ⟨_, step_of_booting hrst hb, by rw [e]; rfl⟩
  · have hlt : s.romCnt.val < 3584 := hroom hvalid
    omega

end

section
/-! The timer step and the counters of the clocked form (60_exceptions.md R212, R214, R215). -/

namespace Sys2Proof.Machine

variable {s t u : State}

theorem State.timerStep_countedFrom (s : State) : s.timerStep.CountedFrom s :=
  ⟨countDown_toNat s.dt, countDown_toNat s.st, rfl, fun r c k hk => s.timerStep.fbDataBit_eq r c k hk⟩

/-- The reload of a counter that counts n mod its period down is the count of n + 1, and comes when n + 1 is a multiple. -/
theorem countEdge_phase {P : Nat} (hP : 0 < P) (n : Nat) :
    (if P - 1 - n % P = 0 then P - 1 else P - 1 - n % P - 1) = P - 1 - (n + 1) % P ∧
      (P - 1 - n % P = 0 ↔ (n + 1) % P = 0) := by
  have hlt : n % P < P := Nat.mod_lt n hP
  rw [← Nat.mod_add_mod n P 1]
  obtain hlast | hless : n % P + 1 = P ∨ n % P + 1 < P := by omega
  · rw [hlast, Nat.mod_self, if_pos (by omega)]
    omega
  · rw [Nat.mod_eq_of_lt hless, if_neg (by omega)]
    omega

/-- How an edge of the running core moves the counters (R214). -/
theorem step_clocked_counters (hs : s.Fires) (hform : s.params.form = .clocked) (h : step s = .next t) :
    t.cntInstr = (if s.cntInstr = 0 then s.params.pInstr - 1 else s.cntInstr - 1) ∧
    (t.run = .running → t.cntTimer = (if s.cntTimer = 0 then s.params.pTimer - 1 else s.cntTimer - 1)) ∧
    (t.run = .halted → s.cntInstr = 0 ∧ t.cntTimer = s.cntTimer) := by
  obtain ⟨hc, u, hu, rfl⟩ | ⟨hc, rfl⟩ := step_clocked_cases hs hform h
  · obtain ⟨hrun, hci, hct⟩ := (u.setCntInstr (s.params.pInstr - 1)).timerEdge_counters
    obtain ⟨-, hsame, -, -, hp⟩ := State.instructionStep_frame hu
    rw [State.setCntInstr_run, State.setCntInstr_cntTimer, State.setCntInstr_params, hsame, hp] at hct
    rw [if_pos hc]
    refine ⟨hci, fun hrunning => hct.trans (if_pos (hrun.symm.trans hrunning)), fun hhalted => ⟨hc, hct.trans ?_⟩⟩
    exact if_neg fun hrunning => by cases hrunning.symm.trans (hrun.symm.trans hhalted)
  · obtain ⟨hrun, hci, hct⟩ := (s.lowerPulses.setCntInstr (s.cntInstr - 1)).timerEdge_counters
    rw [if_neg hc]
    exact ⟨hci, fun _ => hct.trans (if_pos hs.run),
      fun hhalted => (by cases hs.run.symm.trans (hrun.symm.trans hhalted))⟩

/-! An edge compared with the interleaved steps due on it, but for the scheduler's own state. -/

theorem State.withoutScheduler_timerStep (h : s.withoutScheduler = t.withoutScheduler) :
    s.timerStep.withoutScheduler = t.timerStep.withoutScheduler :=
  congrArg (fun u => u.timerStep.withoutScheduler) h

theorem State.withoutScheduler_edge_due (n : Nat) (hrun : u.run = .running) (hc : u.cntTimer = 0) :
    (u.setCntInstr n).timerEdge.nextSample.withoutScheduler = u.timerStep.withoutScheduler := by
  rw [State.timerEdge_due (s := u.setCntInstr n) hrun hc]
  rfl

theorem State.withoutScheduler_edge_idle (n : Nat) (h : u.run ≠ .running ∨ u.cntTimer ≠ 0) :
    (u.setCntInstr n).timerEdge.nextSample.withoutScheduler = u.withoutScheduler := by
  obtain ⟨-, e⟩ | ⟨hrun, hc, -⟩ | ⟨-, -, e⟩ := (u.setCntInstr n).timerEdge_cases
  · rw [e]
    rfl
  · exact absurd hc (h.resolve_left (not_not_intro hrun))
  · rw [e]
    rfl

/-- The interleaved machine fires, where the clocked one does. -/
theorem State.Fires.asInterleaved (hs : s.Fires) (ts : List Tick) : (s.asInterleaved ts).Fires := ⟨hs.rst, hs.run, hs.stop⟩

/-- The instruction step of the clocked machine is one of the interleaved machine. -/
theorem step_asInterleaved_instruction (hs : s.Fires) (ts : List Tick)
    (hu : s.lowerPulses.instructionStep = .next u) :
    ∃ v, step (s.asInterleaved (.instruction :: ts)) = .next v ∧ v.withoutScheduler = u.withoutScheduler ∧
      v.run = u.run ∧ v.params.form = .interleaved ∧
      v.env = (s.asInterleaved (.instruction :: ts)).env.advance := by
  have hstep := State.instructionStep_inContext (c := (s.asInterleaved (.instruction :: ts)).lowerPulses) hu rfl rfl rfl
  refine ⟨_, step_interleaved_instruction (hs.asInterleaved _) rfl rfl hstep, ?_, rfl, rfl, rfl⟩
  rw [State.inContext_of_instructionStep hu]
  rfl

/-- The second of two interleaved steps: a timer step where the first left the core running, else none. -/
theorem step_second_timer {v : State} (hs : s.Fires) (hform : v.params.form = .interleaved)
    (hnow : v.env.now = { s.env.now with tick := .timer }) :
    (v.run = .running → step v = .next v.lowerPulses.timerStep.nextSample) ∧
      (v.run = .halted → step v = .next v.lowerPulses.nextSample) := by
  have hrst : v.env.now.rst = false := by rw [hnow]; exact hs.rst
  have hstop : v.env.now.stop = false := by rw [hnow]; exact hs.stop
  exact ⟨fun hrun => step_interleaved_timer ⟨hrst, hrun, hstop⟩ hform (by rw [hnow]), step_of_halted hrst⟩

/-- An edge with an instruction step due, alone or with a timer step after it. -/
theorem instructionEdge_isInterleavedSteps (hs : s.Fires) (hci : s.cntInstr = 0)
    (hu : s.lowerPulses.instructionStep = .next u) :
    ∃ v, runSteps s.dueTicks.length (s.asInterleaved s.dueTicks) = .next v ∧
      v.withoutScheduler = (u.setCntInstr (s.params.pInstr - 1)).timerEdge.nextSample.withoutScheduler := by
  obtain ⟨-, hsame, -, -, -⟩ := State.instructionStep_frame hu
  by_cases hct : s.cntTimer = 0
  · have hdue : s.dueTicks = [.instruction, .timer] := by simp [State.dueTicks, hci, hct]
    obtain ⟨v, hv, hcore, hvrun, hform, henv⟩ := step_asInterleaved_instruction hs [.timer] hu
    obtain ⟨hfires, hhalts⟩ := step_second_timer hs hform (by rw [henv]; rfl)
    rw [hdue]
    obtain hur | hur : u.run = .running ∨ u.run = .halted :=
      (State.instructionStep_run (s := s.lowerPulses) hs.run hu).imp_right (congrArg State.run)
    · refine ⟨_, (runSteps_succ_of_next hv 1).trans (runSteps_succ_of_next (hfires (hvrun.trans hur)) 0), ?_⟩
      exact (State.withoutScheduler_timerStep hcore).trans
        (State.withoutScheduler_edge_due _ hur (hsame.trans hct)).symm
    · refine ⟨_, (runSteps_succ_of_next hv 1).trans (runSteps_succ_of_next (hhalts (hvrun.trans hur)) 0), ?_⟩
      exact hcore.trans (State.withoutScheduler_edge_idle _ (.inl (by rw [hur]; decide))).symm
  · have hdue : s.dueTicks = [.instruction] := by simp [State.dueTicks, hci, hct]
    obtain ⟨v, hv, hcore, -, -, -⟩ := step_asInterleaved_instruction hs [] hu
    rw [hdue]
    refine ⟨v, runSteps_succ_of_next hv 0, hcore.trans ?_⟩
    exact (State.withoutScheduler_edge_idle _ (.inr (by rwa [hsame]))).symm

end Sys2Proof.Machine
end

section
/-! The obligations of the timer step and of the clocked form (60_exceptions.md R212 to R215). -/

open Sys2Proof Sys2Proof.Machine

/-- Settles O52: in each form the step is the timer step on what the instruction half left, and that half leaves `CNT_TIMER`
and the parameters. -/
theorem timerStepCountsAndPublishes : Obligations.TimerStepCountsAndPublishes := by
  intro s hrst hrun hstop
  have hs : s.Fires := ⟨hrst, hrun, hstop⟩
  refine ⟨fun hform htick => ?_, fun hform hct hci => ?_, fun hform hct hci u hu => ⟨fun hur => ?_, fun hur => ?_⟩⟩
  · exact ⟨_, step_interleaved_timer hs hform htick, s.lowerPulses.timerStep_countedFrom, rfl⟩
  · refine ⟨_, step_clocked_not_due hs hform hci, ?_⟩
    rw [State.timerEdge_due (s := s.lowerPulses.setCntInstr _) hrun hct]
    exact ⟨s.lowerPulses.timerStep_countedFrom, rfl⟩
  · obtain ⟨-, hsame, -, -, hp⟩ := State.instructionStep_frame hu
    refine ⟨_, step_clocked_due hs hform hci hu, ?_⟩
    have hperiod : u.params.pTimer = s.params.fClk / 60 := by rw [hp]; rfl
    rw [State.timerEdge_due (s := u.setCntInstr (s.params.pInstr - 1)) hur (hsame.trans hct), State.setCntInstr_params,
      hperiod]
    exact ⟨u.timerStep_countedFrom, rfl⟩
  · refine ⟨_, step_clocked_due hs hform hci hu, ?_⟩
    rw [State.timerEdge_of_not_running (by rw [State.setCntInstr_run, hur]; decide)]
    rfl

/-- Settles O57: each half of an edge moves its own counter, the second only while the core runs. -/
theorem clockedCounters : Obligations.ClockedCounters := fun _ _ hrst hrun hstop hform h =>
  step_clocked_counters ⟨hrst, hrun, hstop⟩ hform h

/-- Settles O58: a counter that counts the edges down within its period is reloaded on the edge that completes it. -/
theorem clockedPhase : Obligations.ClockedPhase := by
  intro s t n hlegal hrst hrun hstop hform hci hct h htrun
  obtain ⟨hposI, hposT⟩ := periods_pos hlegal
  obtain ⟨hi, ht, -⟩ := step_clocked_counters ⟨hrst, hrun, hstop⟩ hform h
  obtain ⟨hnextI, hdueI⟩ := countEdge_phase hposI n
  obtain ⟨hnextT, hdueT⟩ := countEdge_phase hposT n
  rw [parametersFixed s t h, hi, ht htrun, hci, hct]
  exact ⟨hnextI, hnextT, hdueI, hdueT⟩

/-- Settles O59: by the two ticks an edge may have due. The instruction step does the same under the interleaved machine's
parameters and inputs, and the timer step acts on equal core states, or on neither if the instruction step halted. -/
theorem clockedEdgeIsInterleavedSteps : Obligations.ClockedEdgeIsInterleavedSteps := by
  intro s t hrst hrun hstop hform h
  have hs : s.Fires := ⟨hrst, hrun, hstop⟩
  obtain ⟨hci, u, hu, rfl⟩ | ⟨hci, rfl⟩ := step_clocked_cases hs hform h
  · exact instructionEdge_isInterleavedSteps hs hci hu
  · by_cases hct : s.cntTimer = 0
    · have hdue : s.dueTicks = [.timer] := by simp [State.dueTicks, hci, hct]
      have hstep := step_interleaved_timer (hs.asInterleaved [.timer]) rfl rfl
      rw [hdue]
      exact ⟨_, runSteps_succ_of_next hstep 0, (State.withoutScheduler_edge_due (u := s.lowerPulses) _ hrun hct).symm⟩
    · have hdue : s.dueTicks = [] := by simp [State.dueTicks, hci, hct]
      rw [hdue]
      exact ⟨_, rfl, (State.withoutScheduler_edge_idle (u := s.lowerPulses) _ (.inr hct)).symm⟩

end
